-- ==== Sys2Proof/Word.lean ====
section
/-! DEFINITION. Sys2Proof/Word.lean: the value types of 00_scope.md R11 and nothing that computes.
Signed `i32` values are `BitVec 32` read through `toInt`; exact arithmetic is done in `Int` (R11, R12), where
`Int.tdiv` and `Int.tmod` are the spec's `tdiv` and `trem`. -/

namespace Sys2Proof

/-- `u8` (R11). -/
abbrev Byte := BitVec 8
/-- `u16` (R11): a sample word, a key word, a CRC value. -/
abbrev U16 := BitVec 16
/-- `u32` (R11): a frame word, a lane word, a counter. -/
abbrev U32 := BitVec 32
/-- `i32` (R11): a sector or a physical track, signed. -/
abbrev I32 := BitVec 32
/-- `u64` microseconds (R15, R88). -/
abbrev Time := BitVec 64

end Sys2Proof
end

