-- ==== Sys2Proof/Syntax.lean ====
section
/-! DEFINITION. Sys2Proof/Syntax.lean: the operations of the CORE. The CORE has no instruction words (30_encoding.md
section 1); its operation table is the event-word table of R101 plus the command byte `CMD8` of R103. One constructor
of `Instr` per row of spec/opcode_table.json; an operand that the word carries is a field, an operand that the trace
line carries (R100, R116) is read from the state. -/

namespace Sys2Proof

/-- `sledDirection` (R26), encoded 0, 1, 2 (R114). -/
inductive SledDir where
  | stop | forward | reverse
deriving DecidableEq, Repr, Inhabited

/-- `autoseekDirection` (R27): `Forward` or `Reverse`, encoded 0, 1 (R101, row `X_SEEK`). -/
inductive SeekDir where
  | forward | reverse
deriving DecidableEq, Repr, Inhabited

/-- `mode` (R28): `1x` or `2x`, encoded 0, 1 (R114). -/
inductive SpeedMode where
  | x1 | x2
deriving DecidableEq, Repr, Inhabited

/-- `controlMode` (R50), encoded 0 to 3 (R114). -/
inductive ControlMode where
  | normal | altNormal | levelMeter | peakMeter
deriving DecidableEq, Repr, Inhabited

/-- The operations: one constructor per row of the opcode table, in the table's order. -/
inductive Instr where
  /-- `POWERON` (R361): power-on reset and startup. -/
  | poweron
  /-- `ENV_CMD b` (R244): the command link delivers byte `b`. -/
  | envCmd (b : Byte)
  /-- `ENV_OVERRIDE v` (R293). -/
  | envOverride (v : Bool)
  /-- `ENV_CTLMODE m` (R171). -/
  | envCtlmode (m : ControlMode)
  /-- `ENV_IMAGE n` (R363). -/
  | envImage (n : Byte)
  /-- `ENV_DRAINED` (R312). -/
  | envDrained
  /-- `ENV_SUBQ_TAKEN` (R313). -/
  | envSubqTaken
  /-- `ENV_WCLK v` (R314). -/
  | envWclk (v : Bool)
  /-- `CTRL_ITER` (R230). -/
  | ctrlIter
  /-- `CTRL_LATCH` (R245). -/
  | ctrlLatch
  /-- `CTRL_CHAIN` (R232). -/
  | ctrlChain
  /-- `CTRL_SOCT` (R236). -/
  | ctrlSoct
  /-- `CTRL_SLED` (R237). -/
  | ctrlSled
  /-- `CTRL_SEEKDONE` (R238). -/
  | ctrlSeekdone
  /-- `CTRL_PLAY` (R239). -/
  | ctrlPlay
  /-- `CTRL_AUTHCHK` (R281). -/
  | ctrlAuthchk
  /-- `CTRL_AUTHSTEP` (R283). -/
  | ctrlAuthstep
  /-- `STRM_PREPARE` (R198). -/
  | strmPrepare
  /-- `STRM_SWAP` (R201). -/
  | strmSwap
  /-- `STRM_RELOAD` (R205). -/
  | strmReload
  /-- `P_LOAD` (R132): probe, the description's entries from the trace line. -/
  | pLoad
  /-- `P_TRACK_OF s` (R136): probe, `s` from the trace line. -/
  | pTrackOf
  /-- `P_IS_DATA t` (R137): probe, `t` from the trace line. -/
  | pIsData
  /-- `P_MSF s` (R138): probe, `s` from the trace line. -/
  | pMsf
  /-- `P_BCD v` (R139): probe, `v` from the trace line. -/
  | pBcd
  /-- `P_SUBQ s` (R150): probe, `s` from the trace line. -/
  | pSubq
  /-- `P_CRC b0 … b9` (R167): probe, ten bytes from the trace line. -/
  | pCrc
  /-- `P_PACK b0 … b11` (R170): probe, twelve bytes from the trace line. -/
  | pPack
  /-- `P_KEYGEN` (R190): probe. -/
  | pKeygen
  /-- `P_SCRAMBLE w i` (R203): probe, `w` and `i` from the trace line. -/
  | pScramble
  /-- `P_CONDITION w` (R202): probe, `w` from the trace line. -/
  | pCondition
  /-- `P_SECTOR_OF_TRACK t` (R233): probe, `t` from the trace line. -/
  | pSectorOfTrack
  /-- `P_SECTORS_PER_TRACK t` (R234): probe, `t` from the trace line. -/
  | pSectorsPerTrack
  /-- `P_LOOKUP key` (R192): probe, `key` from the trace line. -/
  | pLookup
  /-- `X_SLED d` (R250). -/
  | xSled (d : SledDir)
  /-- `X_SEEK dir target` (R251): `target` from the trace line. -/
  | xSeek (dir : SeekDir)
  /-- `X_MODE m` (R252). -/
  | xMode (m : SpeedMode)
  /-- `X_CLICKS n` (R253): `n` in 1..255. -/
  | xClicks (n : Byte)
  /-- `X_SOCT` (R254). -/
  | xSoct
  /-- `X_SENS q v` (R255). -/
  | xSens (q : BitVec 4) (v : Bool)
  /-- `CMD8` (R103): a command byte, as CTRL takes it from the command link. -/
  | cmd8 (b : Byte)
deriving DecidableEq, Repr, Inhabited

/-- One word of the input: an event word `EV16` (R100) or a command byte `CMD8` (R103). -/
inductive EventWord where
  | ev16 (w : U16)
  | cmd8 (b : Byte)
deriving DecidableEq, Repr, Inhabited

/-- What a decoder of words answers (R118): an operation, or the verdict `reserved(op, arg)` of R102. -/
inductive Verdict where
  | op (i : Instr)
  | reserved (op arg : Byte)
deriving DecidableEq, Repr, Inhabited

end Sys2Proof
end

