-- ==== Sys2Proof/Config.lean ====
section
/-! DEFINITION. Sys2Proof/Config.lean: the parameters of 00_scope.md R9. A parameter with a value is a constant here; an OPEN
parameter is a field of `Params`, the argument of the model that R9 and R17 ask for. It stands in State as plain data that no
step writes (notes/assumptions/1.md), so a claim about every state is a claim about every parameter value. The two opaque
constants at the end are the free values: results the spec states for no operand value that could produce them. -/

namespace Sys2Proof

/-- `trackType` (R47), encoded 0 and 1 (R114). -/
inductive TrackType where
  | audio | data
deriving DecidableEq, Repr, Inhabited

/-- `TRACK_BOUND_FIELD` (R9, D22). -/
inductive BoundField where
  | index0 | index1
deriving DecidableEq, Repr, Inhabited

/-- `STREAMER_TRACK_SOURCE` (R9, D39). -/
inductive TrackSource where
  | logical | lookup
deriving DecidableEq, Repr, Inhabited

/-- One entry of the track table or of a disc description (R47, R132). `stream` is the storage collaborator's handle;
`none` is the stream of a fallback disc whose description has none (R135). -/
structure Track where
  trackType  : TrackType
  index0     : I32
  index1     : I32
  fileOffset : I32
  size       : I32
  stream     : Option Nat
deriving DecidableEq, Repr, Inhabited

/-- A description from the cue-description collaborator (R132): `openFailed`, and entries for tracks 1..T. -/
structure Description where
  openFailed : Bool
  entries    : List Track
deriving DecidableEq, Repr, Inhabited

/-- The installed layout (R47, R48): entries 1..trackCount and the synthetic lead-out at trackCount + 1. -/
structure Layout where
  tracks     : List Track
  trackCount : Byte
  hasData    : Bool
deriving DecidableEq, Repr, Inhabited

/-- `Result<Layout, LoadError>` of `LOAD` (R132): `Ok(L)`, `Err(Open)`, `Err(Malformed)`. -/
inductive LoadResult where
  | ok (L : Layout)
  | errOpen
  | errMalformed
deriving DecidableEq, Repr, Inhabited

/-- A motion effect (R115, R249). -/
inductive Effect where
  | sledSet (d : SledDir)
  | autoseekStart (target : I32) (dir : SeekDir)
  | modeSet (m : SpeedMode)
  | clickCountSet (n : U32)
  | soctRequest
  | sensWrite (q : BitVec 4) (v : Bool)
deriving DecidableEq, Repr, Inhabited

/-- `ClickCountSet(n : u32, n ≥ 1)` is the only effect with a restricted operand (R115). -/
def Effect.ok : Effect → Bool
  | .sledSet _ => true
  | .autoseekStart _ _ => true
  | .modeSet _ => true
  | .clickCountSet n => n != 0
  | .soctRequest => true
  | .sensWrite _ _ => true

/-- `VIEW` (R248), what `decodeLatch` may read besides the latch and the byte. -/
structure View where
  track          : I32
  sector         : I32
  sledDirection  : SledDir
  autoseekActive : Bool
  mode           : SpeedMode
  sens           : U16
  tracksPerClick : U32
deriving DecidableEq, Repr, Inhabited

/-- One row of the table that stands for the OPEN function `decodeLatch` (R248). `view = none` covers every view. -/
structure LatchRow where
  latch   : BitVec 24
  view    : Option View
  effects : List Effect
deriving DecidableEq, Repr, Inhabited

/-- The OPEN parameters of R9, each under its own name. -/
structure Params where
  /-- `LEAD_IN_SECTORS`. -/
  leadInSectors       : Nat
  /-- `MAX_TRACKS`. -/
  maxTracks           : Nat
  /-- `TRACK_MAX`. -/
  trackMax            : Nat
  /-- `SECTOR_MAX`. -/
  sectorMax           : Nat
  /-- `PRELEADIN_KEY_MOD`. -/
  preleadinKeyMod     : Nat
  /-- `TRACK_MOVE_INTERVAL_US`. -/
  trackMoveIntervalUs : Nat
  /-- `TRACKS_PER_CLICK_RESET`. -/
  tracksPerClickReset : U32
  /-- `AUTOSEEK_PER_TRACK_US`. -/
  autoseekPerTrackUs  : Nat
  /-- `SUBQ_DELAY_US`. -/
  subqDelayUs         : Nat
  /-- `SOCT_SETTLE_US`. -/
  soctSettleUs        : Nat
  /-- `SENS_RESET`. -/
  sensReset           : U16
  /-- `SENS_FOK`. -/
  sensFok             : BitVec 4
  /-- `SENS_CLICK`. -/
  sensClick           : BitVec 4
  /-- `SENS_XBUSY`. -/
  sensXbusy           : BitVec 4
  /-- `decodeLatch`, as a table: the first row whose latch and view match gives the effects, no row gives none. -/
  decodeLatch         : List LatchRow
  /-- `LOCK_DROP_ON_CONTENTION`. -/
  lockDropOnContention : Bool
  /-- `TRACK_BOUND_FIELD`. -/
  trackBoundField     : BoundField
  /-- `CTRL_AUDIO`. -/
  ctrlAudio           : Byte
  /-- `CTRL_DATA`. -/
  ctrlData            : Byte
  /-- `A0_PSEC_AUDIO`. -/
  a0PsecAudio         : Byte
  /-- `A0_PSEC_MIXED`. -/
  a0PsecMixed         : Byte
  /-- `PREGAP_COUNTDOWN_BIAS`, 0 or 1. -/
  pregapCountdownBias : Fin 2
  /-- `CRC_INIT`. -/
  crcInit             : U16
  /-- `CRC_XOROUT`. -/
  crcXorout           : U16
  /-- `LM_BYTE`, 0..11 (R164). -/
  lmByte              : Fin 12
  /-- `LM_EVEN`. -/
  lmEven              : Byte
  /-- `LM_ODD`. -/
  lmOdd               : Byte
  /-- `PM_BYTE`. -/
  pmByte              : Fin 12
  /-- `PM_VALUE`. -/
  pmValue             : Byte
  /-- `KEY_INIT`. -/
  keyInit             : U16
  /-- `KEY_SKIP_WORDS`. -/
  keySkipWords        : Nat
  /-- `STREAMER_TRACK_SOURCE`. -/
  streamerTrackSource : TrackSource
  /-- `SECTOR_PERIOD_US_1X`. -/
  sectorPeriodUs1x    : Rat
  /-- `SECTOR_PERIOD_US_2X`. -/
  sectorPeriodUs2x    : Rat
  /-- `AUTH_WIN_LO`. -/
  authWinLo           : Nat
  /-- `AUTH_WIN_HI`. -/
  authWinHi           : Nat
  /-- `AUTH_PATTERN[0]`, sent from bit 0 to bit 43. -/
  authPattern0        : BitVec 44
  /-- `AUTH_PATTERN[1]`. -/
  authPattern1        : BitVec 44
  /-- `AUTH_PATTERN[2]`. -/
  authPattern2        : BitVec 44
  /-- `AUTH_IDLE_AFTER_ABORT`. -/
  authIdleAfterAbort  : Bool
  /-- `IMAGE_TABLE`. -/
  imageTable          : List Description
deriving DecidableEq, Repr

/-- The ranges R9 (and the value types of R11) give the OPEN parameters. The upper bounds of the sector and track
parameters say that they are `i32` values; `MAX_TRACKS ≤ 254` says that the lead-out's number fits the `u8` of
R24 and R48 (notes/assumptions/2.md). -/
structure Params.Ok (p : Params) : Prop where
  leadIn      : p.leadInSectors + 150 < 2 ^ 31
  maxTracks   : 1 ≤ p.maxTracks ∧ p.maxTracks ≤ 254
  trackMax    : p.trackMax < 2 ^ 31
  sectorMax   : p.sectorMax < 2 ^ 31
  keyMod      : 1 ≤ p.preleadinKeyMod ∧ p.preleadinKeyMod ≤ p.leadInSectors
  clicks      : p.tracksPerClickReset ≠ 0
  sensCodes   : p.sensFok ≠ p.sensClick ∧ p.sensFok ≠ p.sensXbusy ∧ p.sensClick ≠ p.sensXbusy
  latchTable  : ∀ r ∈ p.decodeLatch, ∀ e ∈ r.effects, e.ok = true
  keySkip     : p.keySkipWords ≤ 1176
  authWindow  : p.authWinLo ≤ p.authWinHi

namespace Config

/-! ## Parameters with a value (R9) -/

/-- `FRAMES_PER_SECOND`. -/
def framesPerSecond : Int := 75
/-- `SECONDS_PER_MINUTE`. -/
def secondsPerMinute : Int := 60
/-- `PREGAP_SECTORS`. -/
def pregapSectors : Nat := 150
/-- `CACHE_SLOTS`. -/
def cacheSlots : Nat := 50
/-- `SECTOR_BYTES`. -/
def sectorBytes : Nat := 2352
/-- `SECTOR_WORDS`. -/
def sectorWords : Nat := 1176
/-- `LIMIT_SECTOR`. -/
def limitSector : Int := 3000
/-- `AUTH_DEBOUNCE_US`. -/
def authDebounceUs : Nat := 13333
/-- `AUTH_FIRE_THRESHOLD`. -/
def authFireThreshold : Nat := 100
/-- `AUTH_LEAD_LOW_US`. -/
def authLeadLowUs : Nat := 90000
/-- `AUTH_BIT_US`. -/
def authBitUs : Nat := 4000
/-- `AUTH_GAP_US`. -/
def authGapUs : Nat := 90000

/-! ## The simulation values of 95_test_vectors.md section 2 -/

/-- Disc E of 95_test_vectors.md section 2.1: one Data track and one Audio track. -/
def discE : Description where
  openFailed := false
  entries :=
    [ { trackType := .data,  index0 := 4500#32,  index1 := 4650#32,  fileOffset := 4650#32,  size := 10000#32, stream := some 0 },
      { trackType := .audio, index0 := 14650#32, index1 := 14800#32, fileOffset := 14650#32, size := 2850#32,  stream := some 1 } ]

/-- Disc A of 95_test_vectors.md section 2.1: one Audio track. -/
def discA : Description where
  openFailed := false
  entries :=
    [ { trackType := .audio, index0 := 4500#32, index1 := 4650#32, fileOffset := 4500#32, size := 10000#32, stream := some 2 } ]

/-- The parameter values of 95_test_vectors.md section 2.2: R9's suggested values, and that section's own choices where R9
suggests none (`LM_*` and `PM_*` are not used there; zeros here). They are values for simulation, not claims about the
hardware; only `State.reset` and the tests use them (notes/assumptions/1.md). -/
def simulation : Params where
  leadInSectors := 4500
  maxTracks := 99
  trackMax := 20892
  sectorMax := 333000
  preleadinKeyMod := 10
  trackMoveIntervalUs := 1000
  tracksPerClickReset := 2#32
  autoseekPerTrackUs := 10
  subqDelayUs := 100
  soctSettleUs := 100
  sensReset := 0x0000#16
  sensFok := 0#4
  sensClick := 1#4
  sensXbusy := 2#4
  decodeLatch := []
  lockDropOnContention := false
  trackBoundField := .index0
  ctrlAudio := 0x01#8
  ctrlData := 0x41#8
  a0PsecAudio := 0x00#8
  a0PsecMixed := 0x20#8
  pregapCountdownBias := 0
  crcInit := 0x0000#16
  crcXorout := 0xFFFF#16
  lmByte := 0
  lmEven := 0x00#8
  lmOdd := 0x00#8
  pmByte := 0
  pmValue := 0x00#8
  keyInit := 0x0001#16
  keySkipWords := 6
  streamerTrackSource := .logical
  sectorPeriodUs1x := 40000 / 3
  sectorPeriodUs2x := 20000 / 3
  authWinLo := 0
  authWinHi := 4500
  authPattern0 := 0b00101111101001011101010010111100100101011001#44
  authPattern1 := 0b00101110101001011101010010111100100101011001#44
  authPattern2 := 0b00101101101001011101010010111100100101011001#44
  authIdleAfterAbort := false
  imageTable := [discE, discA]

/-! ## Free values -/

/-- FREE VALUE (notes/assumptions/3.md): what an `i32` element holds when the rule's exact integer result does not fit
32 signed bits. The spec gives the exact formula and the width and states no result there. -/
opaque outOfRangeI32 : Int → I32

/-- FREE VALUE (notes/assumptions/4.md): `toBCD` of a negative operand, which only the probe `P_BCD` can ask for (R139). -/
opaque bcdOfNegative : Int → Byte

end Config

end Sys2Proof
end

