-- ==== Sys2Proof/WellFormed.lean ====
section
/-! DEFINITION. Sys2Proof/WellFormed.lean: the operand constraints of R101 that the types of `Instr` do not already carry.
Every "must be 0" and every other "reserved" constraint of R101 is a matter of the word, not of the operation it spells: it
is checked by the decoder (R102). -/

namespace Sys2Proof

/-- An operation whose operands R101 allows: `X_CLICKS n` takes n in 1..255, 0 is reserved. -/
def Instr.wellFormed : Instr → Bool
  | .xClicks n => n != 0#8
  | .poweron | .envCmd _ | .envOverride _ | .envCtlmode _ | .envImage _ | .envDrained | .envSubqTaken | .envWclk _
  | .ctrlIter | .ctrlLatch | .ctrlChain | .ctrlSoct | .ctrlSled | .ctrlSeekdone | .ctrlPlay | .ctrlAuthchk | .ctrlAuthstep
  | .strmPrepare | .strmSwap | .strmReload
  | .pLoad | .pTrackOf | .pIsData | .pMsf | .pBcd | .pSubq | .pCrc | .pPack | .pKeygen | .pScramble | .pCondition
  | .pSectorOfTrack | .pSectorsPerTrack | .pLookup
  | .xSled _ | .xSeek _ | .xMode _ | .xSoct | .xSens _ _ | .cmd8 _ => true

end Sys2Proof
end

