-- ==== Sys2Proof/Decode.lean ====
section
/-! DEFINITION. Sys2Proof/Decode.lean: the decoder of event words (R100 to R102, total on all 65,536 values, R118), the decoder
of command bytes (R103, total on all 256 values), and after them the encoder written from the same table. -/

namespace Sys2Proof

/-! ## Decoding -/

/-- `ev[15:8]`, the operation code (R100). -/
def evOp (w : U16) : Byte := w.extractLsb' 8 8

/-- `ev[7:0]`, the operand `arg` (R100). -/
def evArg (w : U16) : Byte := w.extractLsb' 0 8

/-- A row whose `arg` must be 0. -/
def argZero (arg : Byte) (i : Instr) : Option Instr :=
  if arg = 0#8 then some i else none

/-- A row whose `arg` carries one bit in bit 0 and must be 0 in bits 7..1. -/
def argBit (arg : Byte) (f : Bool → Instr) : Option Instr :=
  if arg = 0#8 then some (f false) else if arg = 1#8 then some (f true) else none

/-- Control mode in bits 1..0, bits 7..2 must be 0 (R101, R114). -/
def argControlMode (arg : Byte) : Option Instr :=
  match arg.toNat with
  | 0 => some (.envCtlmode .normal)
  | 1 => some (.envCtlmode .altNormal)
  | 2 => some (.envCtlmode .levelMeter)
  | 3 => some (.envCtlmode .peakMeter)
  | _ => none

/-- Sled direction: 0 Stop, 1 Forward, 2 Reverse, 3..255 reserved (R101). -/
def argSled (arg : Byte) : Option Instr :=
  match arg.toNat with
  | 0 => some (.xSled .stop)
  | 1 => some (.xSled .forward)
  | 2 => some (.xSled .reverse)
  | _ => none

/-- `X_SENS`: question code in bits 7..4, value in bit 0, bits 3..1 must be 0 (R101). -/
def argSens (arg : Byte) : Option Instr :=
  match (arg.extractLsb' 0 4).toNat with
  | 0 => some (.xSens (arg.extractLsb' 4 4) false)
  | 1 => some (.xSens (arg.extractLsb' 4 4) true)
  | _ => none

/-- The operation that operation code `op` and operand `arg` spell, by the rows of R101; `none` where R102 says reserved. -/
def decodeOpArg (op arg : Byte) : Option Instr :=
  match op.toNat with
  | 0x00 => argZero arg .poweron
  | 0x01 => some (.envCmd arg)
  | 0x02 => argBit arg .envOverride
  | 0x03 => argControlMode arg
  | 0x04 => some (.envImage arg)
  | 0x05 => argZero arg .envDrained
  | 0x06 => argZero arg .envSubqTaken
  | 0x07 => argBit arg .envWclk
  | 0x10 => argZero arg .ctrlIter
  | 0x11 => argZero arg .ctrlLatch
  | 0x12 => argZero arg .ctrlChain
  | 0x13 => argZero arg .ctrlSoct
  | 0x14 => argZero arg .ctrlSled
  | 0x15 => argZero arg .ctrlSeekdone
  | 0x16 => argZero arg .ctrlPlay
  | 0x17 => argZero arg .ctrlAuthchk
  | 0x18 => argZero arg .ctrlAuthstep
  | 0x20 => argZero arg .strmPrepare
  | 0x21 => argZero arg .strmSwap
  | 0x22 => argZero arg .strmReload
  | 0x30 => argZero arg .pLoad
  | 0x31 => argZero arg .pTrackOf
  | 0x32 => argZero arg .pIsData
  | 0x33 => argZero arg .pMsf
  | 0x34 => argZero arg .pBcd
  | 0x35 => argZero arg .pSubq
  | 0x36 => argZero arg .pCrc
  | 0x37 => argZero arg .pPack
  | 0x38 => argZero arg .pKeygen
  | 0x39 => argZero arg .pScramble
  | 0x3A => argZero arg .pCondition
  | 0x3B => argZero arg .pSectorOfTrack
  | 0x3C => argZero arg .pSectorsPerTrack
  | 0x3D => argZero arg .pLookup
  | 0x40 => argSled arg
  | 0x41 => argBit arg (fun v => .xSeek (if v then .reverse else .forward))
  | 0x42 => argBit arg (fun v => .xMode (if v then .x2 else .x1))
  | 0x43 => if arg = 0#8 then none else some (.xClicks arg)
  | 0x44 => argZero arg .xSoct
  | 0x45 => argSens arg
  | _ => none

/-- The decoder of event words (R118): an operation of R101 with its operand, or the verdict `reserved` of R102. -/
def decodeEv16 (w : U16) : Verdict :=
  match decodeOpArg (evOp w) (evArg w) with
  | some i => .op i
  | none => .reserved (evOp w) (evArg w)

/-- The decoder of command bytes (R103, R118): never fails. -/
def decodeCmd8 (b : Byte) : Instr := .cmd8 b

/-- The decoder of one input word. -/
def decode : EventWord → Verdict
  | .ev16 w => decodeEv16 w
  | .cmd8 b => .op (decodeCmd8 b)

/-- The operation a verdict gives. -/
def Verdict.instr? : Verdict → Option Instr
  | .op i => some i
  | .reserved _ _ => none

/-- The input word whose `nbits` bits are `w`: `EV16` is 16 bits, `CMD8` is 8 bits (30_encoding.md section 1), no format has
another width. -/
def wordOfBits (nbits w : Nat) : Option EventWord :=
  if nbits = 16 then some (.ev16 (BitVec.ofNat 16 w))
  else if nbits = 8 then some (.cmd8 (BitVec.ofNat 8 w))
  else none

/-- The instruction the decoder reads from a table row's word. -/
def decodeTableWord (nbits w : Nat) : Option Instr :=
  match wordOfBits nbits w with
  | some e => (decode e).instr?
  | none => none

/-- The track type a number of a trace line names (R114). -/
def trackTypeOfCode (c : Int) : Option TrackType :=
  if c = 0 then some .audio else if c = 1 then some .data else none

/-! ## Encoding -/

/-- The numeric code of a control mode (R114). -/
def ControlMode.code : ControlMode → Byte
  | .normal => 0#8
  | .altNormal => 1#8
  | .levelMeter => 2#8
  | .peakMeter => 3#8

/-- The numeric code of a sled direction (R114). -/
def SledDir.code : SledDir → Byte
  | .stop => 0#8
  | .forward => 1#8
  | .reverse => 2#8

/-- The numeric code of an autoseek direction (R101, row `X_SEEK`). -/
def SeekDir.code : SeekDir → Byte
  | .forward => 0#8
  | .reverse => 1#8

/-- The numeric code of a speed mode (R114). -/
def SpeedMode.code : SpeedMode → Byte
  | .x1 => 0#8
  | .x2 => 1#8

/-- The numeric code of a track type (R114). -/
def TrackType.code : TrackType → Byte
  | .audio => 0#8
  | .data => 1#8

/-- One bit as an operand. -/
def bitArg (v : Bool) : Byte := if v then 1#8 else 0#8

/-- `{op, arg}` (R100). -/
def evWord (op arg : Byte) : EventWord := .ev16 (op ++ arg)

/-- The word of an operation, by the rows of R101 and the format `CMD8` of R103. -/
def encode : Instr → EventWord
  | .poweron => evWord 0x00#8 0#8
  | .envCmd b => evWord 0x01#8 b
  | .envOverride v => evWord 0x02#8 (bitArg v)
  | .envCtlmode m => evWord 0x03#8 m.code
  | .envImage n => evWord 0x04#8 n
  | .envDrained => evWord 0x05#8 0#8
  | .envSubqTaken => evWord 0x06#8 0#8
  | .envWclk v => evWord 0x07#8 (bitArg v)
  | .ctrlIter => evWord 0x10#8 0#8
  | .ctrlLatch => evWord 0x11#8 0#8
  | .ctrlChain => evWord 0x12#8 0#8
  | .ctrlSoct => evWord 0x13#8 0#8
  | .ctrlSled => evWord 0x14#8 0#8
  | .ctrlSeekdone => evWord 0x15#8 0#8
  | .ctrlPlay => evWord 0x16#8 0#8
  | .ctrlAuthchk => evWord 0x17#8 0#8
  | .ctrlAuthstep => evWord 0x18#8 0#8
  | .strmPrepare => evWord 0x20#8 0#8
  | .strmSwap => evWord 0x21#8 0#8
  | .strmReload => evWord 0x22#8 0#8
  | .pLoad => evWord 0x30#8 0#8
  | .pTrackOf => evWord 0x31#8 0#8
  | .pIsData => evWord 0x32#8 0#8
  | .pMsf => evWord 0x33#8 0#8
  | .pBcd => evWord 0x34#8 0#8
  | .pSubq => evWord 0x35#8 0#8
  | .pCrc => evWord 0x36#8 0#8
  | .pPack => evWord 0x37#8 0#8
  | .pKeygen => evWord 0x38#8 0#8
  | .pScramble => evWord 0x39#8 0#8
  | .pCondition => evWord 0x3A#8 0#8
  | .pSectorOfTrack => evWord 0x3B#8 0#8
  | .pSectorsPerTrack => evWord 0x3C#8 0#8
  | .pLookup => evWord 0x3D#8 0#8
  | .xSled d => evWord 0x40#8 d.code
  | .xSeek dir => evWord 0x41#8 dir.code
  | .xMode m => evWord 0x42#8 m.code
  | .xClicks n => evWord 0x43#8 n
  | .xSoct => evWord 0x44#8 0#8
  | .xSens q v => evWord 0x45#8 (q ++ (if v then 1#4 else 0#4))
  | .cmd8 b => .cmd8 b

end Sys2Proof
end

