-- ==== Sys2Proof/Machine/Scrambler.lean ====
section
/-! DEFINITION. Sys2Proof/Machine/Scrambler.lean: the scrambling key and the sample datapath (43_streamer.md R190, R196, R202, R203). -/

namespace Sys2Proof.Machine

/-- One feedback step (R190): bit 0 xor bit 1 fed in at bit 15, then shifted right by one. -/
def keyStep (k : U16) : U16 :=
  (((k &&& 1#16) ^^^ ((k >>> 1) &&& 1#16)) <<< 15 ||| k) >>> 1

/-- `n` feedback steps; a round is eight. -/
def keySteps : Nat → U16 → U16
  | 0, k => k
  | n + 1, k => keySteps n (keyStep k)

/-- `n` key words from register `k` (R190): the low byte before the first round, the low byte after it as the high byte, then the
second round. -/
def keyWords : Nat → U16 → List U16
  | 0, _ => []
  | n + 1, k => ((keySteps 8 k).extractLsb' 0 8 ++ k.extractLsb' 0 8) :: keyWords n (keySteps 16 k)

/-- `KEYGEN()` (R190): `KEY_SKIP_WORDS` zero words, then the key words, 1176 in all. -/
def keygen (p : Params) : List U16 :=
  List.replicate (min p.keySkipWords Config.sectorWords) 0#16 ++
    keyWords (Config.sectorWords - p.keySkipWords) p.keyInit

/-- `SCRAMBLE` of a word with a key word (R203). -/
def scrambleWord (w key : U16) : U16 := w ^^^ key

/-- `SCRAMBLE(w, i)` (R203), for i in 0..1175. -/
def scramble (key : List U16) (w : U16) (i : Nat) : U16 := scrambleWord w (key.getD i 0#16)

/-- `CONDITION(w)` (R112, R202). -/
def condition (w : U16) : U32 :=
  0x00#8 ++ w ++ (if w.getLsbD 0 then 0xFF#8 else 0x00#8)

/-- Sample words of a sector, little-endian (R73, R196). -/
def samplesOf : List Byte → List U16
  | lo :: hi :: rest => (hi ++ lo) :: samplesOf rest
  | [_] => []
  | [] => []

end Sys2Proof.Machine
end

