-- ==== Sys2Proof/Machine/Arith.lean ====
section
/-! DEFINITION. Sys2Proof/Machine/Arith.lean: the exact arithmetic of the rules: narrowing to `i32`, MSF and BCD (R138 to R140),
the spiral functions (R233, R234) and the clamp (R235). Every rule's arithmetic is done in `Int` and narrowed where the
rule's result is stored at its end (R11; notes/assumptions/3.md). -/

namespace Sys2Proof.Machine

/-- `x` is an `i32` value. -/
abbrev fitsI32 (x : Int) : Prop := -2 ^ 31 ≤ x ∧ x < 2 ^ 31

/-- An exact integer stored in an `i32` element; a value that does not fit is free (notes/assumptions/3.md). -/
def narrowI32 (x : Int) : I32 :=
  if fitsI32 x then BitVec.ofInt 32 x else Config.outOfRangeI32 x

/-! ## MSF and BCD -/

/-- `(mm, ss, ff)` of R138. -/
structure Msf where
  mm : Int
  ss : Int
  ff : Int
deriving DecidableEq, Repr

/-- `MSF(s)` (R138): truncating division and remainder, then absolute values. -/
def msf (s : Int) : Msf where
  mm := ((s.tdiv Config.framesPerSecond).tdiv Config.secondsPerMinute).natAbs
  ss := ((s.tdiv Config.framesPerSecond).tmod Config.secondsPerMinute).natAbs
  ff := (s.tmod Config.framesPerSecond).natAbs

/-- `SECTOR(mm, ss, ff)` (R140), the inverse of MSF; no operation uses it. -/
def sectorOfMsf (m : Msf) : Int :=
  (m.mm * Config.secondsPerMinute + m.ss) * Config.framesPerSecond + m.ff

/-- `toBCD(v)` (R109, R139): two digits, 0x99 above 99; a negative operand has no stated result (notes/assumptions/4.md). -/
def toBcd (v : Int) : Byte :=
  if v < 0 then Config.bcdOfNegative v
  else if v > 99 then 0x99#8
  else BitVec.ofInt 8 (v.tdiv 10 * 16 + v.tmod 10)

/-- `bcd3(m)`: the three bytes of an MSF triple (42_subq.md introduction). -/
def bcd3 (m : Msf) : List Byte := [toBcd m.mm, toBcd m.ss, toBcd m.ff]

/-! ## Spiral model -/

/-- The exact integer of `SOT(t)` (R233): t² · 31499/10⁸ + t · 9357516535/10⁹, truncated toward zero. -/
def sectorOfTrackInt (t : Int) : Int :=
  (t * t * 314990 + t * 9357516535).tdiv 1000000000

/-- `SOT(t) -> i32` (R233). -/
def sectorOfTrack (t : I32) : I32 := narrowI32 (sectorOfTrackInt t.toInt)

/-- `roundHalfAway(n / d)` for a positive `d` (R12): sign(n) · floor(|n|/d + 1/2). -/
def roundHalfAway (n : Int) (d : Nat) : Int :=
  n.sign * ((2 * n.natAbs + d) / (2 * d) : Nat)

/-- The exact integer of `SPT(t)` (R234): t · 616397/10⁹ + 9, rounded half away from zero. -/
def sectorsPerTrackInt (t : Int) : Int :=
  roundHalfAway (t * 616397 + 9000000000) 1000000000

/-- `SPT(t) -> i32` (R234). -/
def sectorsPerTrack (t : I32) : I32 := narrowI32 (sectorsPerTrackInt t.toInt)

/-! ## Clamping -/

/-- The three position values of a branch body, exact. -/
structure ExactPos where
  sector               : Int
  track                : Int
  sectorForTrackUpdate : Int
deriving DecidableEq, Repr

/-- `CLAMP` (R235): a negative sector or track resets all three to 0; otherwise track and sector are limited at the top, and
`sectorForTrackUpdate` is not. -/
def clampPos (p : Params) (e : ExactPos) : ExactPos :=
  if e.sector < 0 ∨ e.track < 0 then { sector := 0, track := 0, sectorForTrackUpdate := 0 }
  else
    { sector := if e.sector > p.sectorMax then p.sectorMax else e.sector
      track := if e.track > p.trackMax then p.trackMax else e.track
      sectorForTrackUpdate := e.sectorForTrackUpdate }

/-- Whether CLAMP meets condition 0x20 of R330. -/
def clampNegative (e : ExactPos) : Bool := e.sector < 0 ∨ e.track < 0

/-- Whether CLAMP meets condition 0x21 of R330. -/
def clampHigh (p : Params) (e : ExactPos) : Bool :=
  !clampNegative e && (e.track > p.trackMax ∨ e.sector > p.sectorMax)

end Sys2Proof.Machine
end

