-- ==== Sys2Proof/Machine/Layout.lean ====
section
/-! DEFINITION. Sys2Proof/Machine/Layout.lean: DiscLayout (41_layout.md): LOAD, the synthetic lead-out, the fallback, INSTALL and
the queries TRACK_OF and IS_DATA. -/

namespace Sys2Proof.Machine

/-- What the entry at an index outside 1..trackCount + 1 reads as. No rule of the spec reads one (R333); a run from reset never
does (Safety.lean, `LayoutOk`). -/
def blankTrack : Track where
  trackType := .audio
  index0 := 0#32
  index1 := 0#32
  fileOffset := 0#32
  size := 0#32
  stream := none

/-- `tracks[t]`, 1-indexed (R47). -/
def trackAt (L : Layout) (t : Nat) : Track :=
  match t with
  | 0 => blankTrack
  | k + 1 => L.tracks.getD k blankTrack

/-- `trackCount + 1`, the lead-out's logical track number. -/
def leadOutNumber (L : Layout) : Nat := L.trackCount.toNat + 1

/-! ## LOAD -/

/-- The checks of LOAD's loop (R132): `index1 ≥ index0`, `size ≥ 0`, and `index1(t) ≤ index0(t+1)`. -/
def entriesConsistent : List Track → Bool
  | [] => true
  | e :: rest =>
    !(e.index1.toInt < e.index0.toInt) && !(e.size.toInt < 0) &&
      (match rest with
       | [] => true
       | n :: _ => !(e.index1.toInt > n.index0.toInt)) &&
      entriesConsistent rest

/-- `LEADOUT(L)` (R133), from the last track `p`: it begins at `index1 + size` of `p` and copies its type, file offset and stream. -/
def leadOutAfter (p : Track) : Track where
  trackType := p.trackType
  index0 := narrowI32 (p.index1.toInt + p.size.toInt)
  index1 := narrowI32 (p.index1.toInt + p.size.toInt)
  fileOffset := p.fileOffset
  size := 0#32
  stream := p.stream

/-- A layout of the given tracks, with its lead-out, count and `hasData` (R132, R133, R134). -/
def layoutOf (entries : List Track) : Layout where
  tracks := entries ++ [leadOutAfter (entries.getLastD blankTrack)]
  trackCount := BitVec.ofNat 8 entries.length
  hasData := entries.any (fun e => e.trackType == .data)

/-- `LOAD(description)` (R132). -/
def load (p : Params) (d : Description) : LoadResult :=
  if d.openFailed then .errOpen
  else if d.entries.length < 1 ∨ d.entries.length > p.maxTracks then .errMalformed
  else if entriesConsistent d.entries then .ok (layoutOf d.entries)
  else .errMalformed

/-- The single Data track of `FALLBACK(d)` (R135); its stream is the first stream of `d`, or none. -/
def fallbackTrack (p : Params) (d : Description) : Track where
  trackType := .data
  index0 := narrowI32 p.leadInSectors
  index1 := narrowI32 (p.leadInSectors + 150)
  fileOffset := narrowI32 (p.leadInSectors + 150)
  size := 0#32
  stream := match d.entries with
    | [] => none
    | e :: _ => e.stream

/-- `FALLBACK(d)` (R135). -/
def fallback (p : Params) (d : Description) : Layout := layoutOf [fallbackTrack p d]

/-- The layout `INSTALL(LOAD(d))` installs (R132). -/
def installed (p : Params) (d : Description) : Layout :=
  match load p d with
  | .ok L => L
  | .errOpen => fallback p d
  | .errMalformed => fallback p d

/-- `IMAGE_TABLE[n]`; an index with no entry loads as `Err(Open)` (R205). -/
def imageAt (p : Params) (n : U32) : Description :=
  p.imageTable.getD n.toNat { openFailed := true, entries := [] }

/-! ## Queries -/

/-- The index of an entry that `TRACK_BOUND_FIELD` names (R136). -/
def boundOf (f : BoundField) (e : Track) : Int :=
  match f with
  | .index0 => e.index0.toInt
  | .index1 => e.index1.toInt

/-- `TRACK_OF(s)` (R136): the first t in 1..trackCount with `s < tracks[t+1].f`, else the lead-out. -/
def trackOf (p : Params) (L : Layout) (s : Int) : Nat :=
  match (List.range L.trackCount.toNat).find? (fun k => s < boundOf p.trackBoundField (trackAt L (k + 2))) with
  | some k => k + 1
  | none => leadOutNumber L

/-- `IS_DATA(t)` for t in range (R137). -/
def isData (L : Layout) (t : Nat) : Bool := (trackAt L t).trackType == .data

end Sys2Proof.Machine
end

