-- ==== Sys2Proof/Machine/Subq.lean ====
section
/-! DEFINITION. Sys2Proof/Machine/Subq.lean: SubchannelEncoder (42_subq.md): the lead-in TOC, the program area, the control modes, the
CRC and the packing into lane words. A block `raw[0..11]` is a list of 12 bytes. -/

namespace Sys2Proof.Machine

/-! ## CRC -/

/-- `n` MSB-first steps with polynomial 0x1021 (R166). -/
def crcSteps : Nat → U16 → U16
  | 0, c => c
  | n + 1, c => crcSteps n (if c.getLsbD 15 then (c <<< 1) ^^^ 0x1021#16 else c <<< 1)

/-- `crcTable` (R46, R166): entry i is the remainder of `i << 8` after eight steps. -/
def crcTable : List U16 := (List.range 256).map (fun i => crcSteps 8 (BitVec.ofNat 16 i <<< 8))

/-- One byte of the CRC loop (R167). -/
def crcByte (c : U16) (b : Byte) : U16 :=
  crcTable.getD ((c >>> 8).toNat ^^^ b.toNat) 0#16 ^^^ (c <<< 8)

/-- `CRC(b[0..9])` (R167), over the first ten bytes of a block. -/
def crc (p : Params) (raw : List Byte) : U16 :=
  (raw.take 10).foldl crcByte p.crcInit ^^^ p.crcXorout

/-! ## Block fields -/

/-- `ctl(t)` of an entry: `CTRL_DATA` or `CTRL_AUDIO` (R106). -/
def ctlOf (p : Params) (e : Track) : Byte :=
  match e.trackType with
  | .data => p.ctrlData
  | .audio => p.ctrlAudio

/-- Bytes 0 to 9 of a block, with byte 6 zero (R105, R161), and bytes 10 and 11 still zero. -/
def blockOf (ctl tno point : Byte) (rel abs : List Byte) : List Byte :=
  [ctl, tno, point] ++ rel ++ [0x00#8] ++ abs ++ [0x00#8, 0x00#8]

/-! ## Lead-in -/

/-- The point of lead-in sector `s` (R151); a value ≤ 0 is no point. -/
def leadInPoint (L : Layout) (s : Int) : Int :=
  ((s - 1).tdiv 3).tmod (3 + L.trackCount.toNat) + 1

/-- The bytes 7 to 9 of `TOC_TRACK(p)` (R153): 00:02:00 for track 1, else the track's start. -/
def tocTrackAbs (p : Params) (L : Layout) (k : Nat) : List Byte :=
  if k = 1 then [0x00#8, 0x02#8, 0x00#8]
  else bcd3 (msf ((trackAt L k).index1.toInt - p.leadInSectors))

/-- The lead-in block of point `pt`, at least 1 (R151 to R156), with the running time of R152. -/
def leadInBlock (p : Params) (L : Layout) (s : Int) (pt : Nat) : List Byte :=
  let T := L.trackCount.toNat
  let rel := bcd3 (msf (s - p.leadInSectors))
  if pt ≤ T then blockOf (ctlOf p (trackAt L pt)) 0x00#8 (toBcd pt) rel (tocTrackAbs p L pt)
  else if pt = T + 1 then
    blockOf (ctlOf p (trackAt L 1)) 0x00#8 0xA0#8 rel
      [0x01#8, if L.hasData then p.a0PsecMixed else p.a0PsecAudio, 0x00#8]
  else if pt = T + 2 then
    blockOf (ctlOf p (trackAt L T)) 0x00#8 0xA1#8 rel [toBcd T, 0x00#8, 0x00#8]
  else
    blockOf (ctlOf p (trackAt L T)) 0x00#8 0xA2#8 rel (bcd3 (msf ((trackAt L (T + 1)).index1.toInt - p.leadInSectors)))

/-! ## Program area and lead-out -/

/-- The count-down block (R158), `LI ≤ s < LI + 150`, for a track the disc has. -/
def countDownBlock (p : Params) (L : Layout) (s : Int) (t : Nat) : List Byte :=
  let c : Int := p.leadInSectors + Config.pregapSectors - s - p.pregapCountdownBias.val
  blockOf (ctlOf p (trackAt L t)) (toBcd t) 0x00#8
    [0x00#8, toBcd (c.tdiv Config.framesPerSecond), toBcd (c.tmod Config.framesPerSecond)]
    (bcd3 (msf (s - p.leadInSectors)))

/-- The forward-timing block (R159), and the lead-out block with tno 0xAA (R160). -/
def forwardBlock (p : Params) (L : Layout) (s : Int) (t : Nat) : List Byte :=
  blockOf (ctlOf p (trackAt L t)) (if t = leadOutNumber L then 0xAA#8 else toBcd t) 0x01#8
    (bcd3 (msf (s - (trackAt L t).index1.toInt))) (bcd3 (msf (s - p.leadInSectors)))

/-- `PROGRAM(s)` (R157) for the resolved track `t`. THE MODEL'S CHOICE (notes/assumptions/20.md): where a short disc's lead-out begins before `LI + 150`, a
sector of it has the lead-out block of R160 and R108, not the count-down that R157's split by sector would give it. -/
def programBlock (p : Params) (L : Layout) (s : Int) (t : Nat) : List Byte :=
  if s < p.leadInSectors + Config.pregapSectors ∧ t ≠ leadOutNumber L then countDownBlock p L s t else forwardBlock p L s t

/-! ## Control modes -/

/-- The CRC stored high byte first in bytes 10 and 11 (R75, R162, R168). -/
def storeCrc (p : Params) (raw : List Byte) : List Byte :=
  (raw.set 10 ((crc p raw).extractLsb' 8 8)).set 11 ((crc p raw).extractLsb' 0 8)

/-- `MODE(m, s, raw)` (R162 to R165). -/
def applyMode (p : Params) (m : ControlMode) (s : Int) (raw : List Byte) : List Byte :=
  match m with
  | .normal => storeCrc p raw
  | .altNormal => storeCrc p raw
  | .levelMeter => raw.set p.lmByte.val (if s.tmod 2 = 0 then p.lmEven else p.lmOdd)
  | .peakMeter => raw.set p.pmByte.val p.pmValue

/-! ## Generation and packing -/

/-- A generated block and the logical track its program-area path resolved (R150). -/
structure SubqResult where
  raw    : List Byte
  lookup : Option Nat
deriving DecidableEq, Repr

/-- `SUBQ(s)` (R150); `none` for a lead-in point ≤ 0, which R151 refuses and no sector ≥ 0 has. -/
def subq (p : Params) (L : Layout) (m : ControlMode) (s : Int) : Option SubqResult :=
  if s < p.leadInSectors then
    if leadInPoint L s ≤ 0 then none
    else some { raw := applyMode p m s (leadInBlock p L s (leadInPoint L s).toNat), lookup := none }
  else
    some { raw := applyMode p m s (programBlock p L s (trackOf p L s)), lookup := some (trackOf p L s) }

/-- Three `u32` lane words (R32). -/
structure Lane where
  w0 : U32
  w1 : U32
  w2 : U32
deriving DecidableEq, Repr, Inhabited

/-- Lane word k of a block, `raw[4k+3], raw[4k+2], raw[4k+1], raw[4k]` (R74). -/
def laneWord (raw : List Byte) (k : Nat) : U32 :=
  raw.getD (4 * k + 3) 0#8 ++ raw.getD (4 * k + 2) 0#8 ++ raw.getD (4 * k + 1) 0#8 ++ raw.getD (4 * k) 0#8

/-- `PACK(raw)` (R170). -/
def pack (raw : List Byte) : Lane where
  w0 := laneWord raw 0
  w1 := laneWord raw 1
  w2 := laneWord raw 2

end Sys2Proof.Machine
end

