-- ==== Sys2Proof/Machine/State.lean ====
section
/-! DEFINITION. Sys2Proof/Machine/State.lean: the state of the CORE (10_state.md), grouped by owner as that file groups it, and beside
it the model's own fields: the parameters (R9), the input trace with the draws of its current line (R5, R116), the storage
streams (R71), the values a shared read may still see (R83), and the observable logs (R310, R330). -/

namespace Sys2Proof.Machine

/-! ## Phases and enumerations -/

/-- `ctrlPhase` (R25, R231). A deadline is an exact time, a Nat: a wait ends when `now()` has reached it (R15). -/
inductive CtrlPhase where
  | startup
  | top
  | soctSettle (deadline : Nat)
  | playDelay (deadline : Nat)
  | auth
deriving DecidableEq, Repr, Inhabited

/-- `authPhase` (R38, R283): `Bit(r, i)` with r in 0..5 and i in 0..43, `Gap(r)` with r in 0..4. -/
inductive AuthPhase where
  | idle
  | leadLow
  | bit (r : Fin 6) (i : Fin 44)
  | gap (r : Fin 5)
deriving DecidableEq, Repr, Inhabited

/-- `strmPhase` (R25, R200). -/
inductive StrmPhase where
  | startup | prepare | waitDrain | waitClock
deriving DecidableEq, Repr, Inhabited

/-- `haltCause` (R52): none, or code 0x01 of R330, the storage mount failure of R331. -/
inductive HaltCause where
  | none
  | mountFailure
deriving DecidableEq, Repr, Inhabited

/-- The conditions of R330, for the diagnostic log. -/
inductive Diag where
  /-- 0x01 storage mount failure at startup. -/
  | mountFailure
  /-- 0x10 seek failed, rewound to stream start. -/
  | seekRewound
  /-- 0x11 seek and rewind both failed. -/
  | seekFailed
  /-- 0x12 read failed. -/
  | readFailed
  /-- 0x13 short read. -/
  | shortRead
  /-- 0x20 track or sector negative. -/
  | positionNegative
  /-- 0x21 track or sector above its maximum. -/
  | positionHigh
  /-- 0x30 description could not be opened. -/
  | loadOpen
  /-- 0x31 missing or inconsistent track entries. -/
  | loadMalformed
deriving DecidableEq, Repr, Inhabited

/-! ## Groups of state elements -/

/-- The `Position` group (R21 to R24). -/
structure Position where
  sector               : I32
  track                : I32
  sectorForTrackUpdate : I32
  currentLogicalTrack  : Byte
deriving DecidableEq, Repr, Inhabited

/-- Controller-owned motion state (R26 to R30). -/
structure Motion where
  sledDirection     : SledDir
  autoseekActive    : Bool
  autoseekTarget    : I32
  autoseekDirection : SeekDir
  autoseekStart     : Time
  mode              : SpeedMode
  lastMotionTime    : Time
  clickAccum        : U32
  tracksPerClick    : U32
  soctPending       : Bool
  soctEnabled       : Bool
deriving DecidableEq, Repr, Inhabited

/-- Subchannel handshake and lane (R31, R32). -/
structure Subchannel where
  consumed : Bool
  lane     : Lane
deriving DecidableEq, Repr, Inhabited

/-- Command latch, SENS vector and command queue (R33 to R35, R56). -/
structure Command where
  latch       : BitVec 24
  sens        : U16
  currentSens : BitVec 4
  cmdQueue    : List Byte
deriving DecidableEq, Repr, Inhabited

/-- Authentication generator (R37 to R39). -/
structure Auth where
  phase      : AuthPhase
  phaseStart : Time
  counter    : U32
  lastCheck  : Time
  line       : Bool
deriving DecidableEq, Repr, Inhabited

/-- One cache slot (R40): `buf` is 1176 sample words. -/
structure Slot where
  valid : Bool
  key   : I32
  buf   : List U16
deriving DecidableEq, Repr, Inhabited

/-- Streamer-owned state (R25, R40 to R44, R55): `frame0` and `frame1` are `frames[0]` and `frames[1]`. -/
structure Streamer where
  phase          : StrmPhase
  cache          : List Slot
  writeCursor    : Byte
  frame0         : List U32
  frame1         : List U32
  activeIdx      : BitVec 1
  playingSector  : I32
  preparedSector : I32
  clockEdges     : BitVec 2
  drainPending   : Bool
  wclkLevel      : Bool
  loadedImage    : U32
deriving DecidableEq, Repr, Inhabited

/-- Configuration inputs (R49 to R51); `overrideFlag` is `override`. -/
structure Inputs where
  imageIndex   : U32
  controlMode  : ControlMode
  overrideFlag : Bool
deriving DecidableEq, Repr, Inhabited

/-! ## The model's own state -/

/-- The value before the last write of each shared field STRM reads without the lock (R83): what a stale read sees. -/
structure OldShared where
  sector              : I32
  currentLogicalTrack : Byte
  imageIndex          : U32
deriving DecidableEq, Repr, Inhabited

/-- The draws of one trace line (R5): each is the environment's free choice for the operation of that line. -/
structure Draws where
  /-- `mountOk` (R361). -/
  mountOk         : Bool
  /-- The lock (R84): the number of attempts of this latch service that succeed before one fails, `none` when none fails. -/
  lockContendedAt : Option Nat
  /-- The answer of the first `seek` (R72, R197). -/
  seekOk          : Bool
  /-- The answer of the rewinding `seek(stream, 0)` (R197). -/
  rewindOk        : Bool
  /-- The answer of `read` (R72, R197): `none` is Error, `some n` is Ok(n). -/
  readAnswer      : Option Nat
  /-- Whether the shared reads of this step see the value before the last write (R83): `Position.sector`. -/
  staleSector     : Bool
  /-- `Position.currentLogicalTrack`. -/
  staleTrack      : Bool
  /-- `imageIndex`, as the reload check reads it (R200). -/
  staleImage      : Bool
  /-- `imageIndex`, as RELOAD reads it for the image to install, a read of its own (R205). -/
  staleReload     : Bool
  /-- Whether the description `P_LOAD` gives could be opened, `not d.openFailed` (R132); the descriptions of `IMAGE_TABLE` say so themselves. -/
  descriptionOpens : Bool
deriving DecidableEq, Repr, Inhabited

/-- The draws of a trace that says nothing of them: the mount, the lock, every seek, every read and the opening of a description succeed, and
every shared read is current (95_test_vectors.md section 2.1). -/
def Draws.plain : Draws where
  mountOk := true
  lockContendedAt := none
  seekOk := true
  rewindOk := true
  readAnswer := some 2352
  staleSector := false
  staleTrack := false
  staleImage := false
  staleReload := false
  descriptionOpens := true

/-- One line of the input trace (R116): its time, its word, its wide operands and its draws. -/
structure TraceLine where
  time     : Time
  word     : EventWord
  operands : List Int
  draws    : Draws
deriving DecidableEq, Repr, Inhabited

/-- The result of a probe (R101, class P). -/
inductive ProbeResult where
  | layout (r : LoadResult)
  | track (t : Nat)
  | bool (b : Bool)
  | msf (m : Msf)
  | byte (b : Byte)
  | block (r : SubqResult)
  | crc (c : U16)
  | lane (l : Lane)
  | key (k : List U16)
  | sample (w : U16)
  | laneWord (w : U32)
  | i32 (x : I32)
  | slot (j : Option Nat)
deriving DecidableEq, Repr

/-- One storage request: `SECTOR_READ(stream, addr)` (R77, R197). -/
structure StorageRequest where
  stream : Option Nat
  addr   : Int
deriving DecidableEq, Repr, Inhabited

/-- What the CORE has put out, oldest first. No rule reads any of it: `dataOut` and `subqOut` (R310), the probes' results (R101),
the diagnostic log (R330), the storage requests made (R206). -/
structure Outputs where
  dataOut  : List (List U32)
  subqOut  : List Lane
  probeOut : List ProbeResult
  diag     : List Diag
  reads    : List StorageRequest
deriving DecidableEq, Repr

/-- The contents of one backing stream (R71): cells in canonical form (Machine/Ops.lean, `Memory.wf`). -/
abbrev Memory := List Host.Cell

/-- The backing streams by handle, in canonical form (Machine/Ops.lean, `Storage.wf`). -/
abbrev Storage := List (Nat × Memory)

/-! ## Outcomes -/

/-- Reasons a step stops with a fault. The spec gives the CORE none: its one fatal stop is a state, `halted` (R331), and every other
error is handled inline (R336). -/
inductive Fault where
deriving DecidableEq, Repr

/-- Reasons a step is refused. Each is one the spec itself names, but for the two about the form of a trace. -/
inductive Refusal where
  /-- An instruction without a meaning; no arm of this model says so. Safe. -/
  | notModelled (mnemonic : String)
  /-- The decoder's verdict `reserved(op, arg)` (R102): raised by the fetch. Safe. -/
  | reserved (op arg : Byte)
  /-- An event before the first `POWERON` (R375): raised by the fetch. Safe. -/
  | beforePowerOn
  /-- A trace line earlier than the one before it, which R116 and R88 exclude: raised by the fetch. Safe. -/
  | timeDecreases
  /-- A trace line whose operands are not those of its mnemonic (R116): raised by the operations that read operands, the probes but `P_KEYGEN` and
  `X_SEEK` (notes/assumptions/6.md). Safe. -/
  | badOperands
  /-- `X_CLICKS 0`, which R101 reserves and the decoder never gives: raised by `X_CLICKS`. Safe. -/
  | reservedOperand
  /-- `IS_DATA(t)` with t outside 1..trackCount + 1 (R137): raised by `P_IS_DATA`. Safe. -/
  | trackOutOfRange
  /-- `SCRAMBLE(w, i)` with i outside 0..1175 (R203): raised by `P_SCRAMBLE`. Safe. -/
  | keyIndexOutOfRange
  /-- A lead-in point p ≤ 0 (R151): raised by `P_SUBQ`, and by a transmission at a negative sector, which no run reaches. Safe. -/
  | noSuchPoint
deriving DecidableEq, Repr

/-! ## The state -/

/-- The state of the machine. -/
structure State where
  -- architectural state (10_state.md)
  pos         : Position
  ctrlPhase   : CtrlPhase
  motion      : Motion
  subq        : Subchannel
  cmd         : Command
  auth        : Auth
  strm        : Streamer
  scrambleKey : List U16
  layout      : Layout
  inputs      : Inputs
  halted      : Bool
  haltCause   : HaltCause
  ctrlReady   : Bool
  strmReady   : Bool
  -- the model's own fields
  params      : Params
  poweredOn   : Bool
  old         : OldShared
  storage     : Storage
  now         : Time
  operands    : List Int
  draws       : Draws
  trace       : List TraceLine
  out         : Outputs
deriving DecidableEq, Repr

/-- What the fetch of the next trace line gives. -/
inductive Fetched where
  /-- The trace has ended: no event happens. -/
  | idle
  /-- The line spells no operation that may run now. -/
  | refused (r : Refusal)
  /-- The operation, and the state with the line taken and its time, operands and draws in force. -/
  | run (i : Instr) (s : State)
deriving Repr

/-! ## Reset values (10_state.md section 10) -/

namespace Reset

/-- R21 to R24. -/
def position : Position where
  sector := 0#32
  track := 0#32
  sectorForTrackUpdate := 0#32
  currentLogicalTrack := 1#8

/-- R26 to R30. -/
def motion (p : Params) : Motion where
  sledDirection := .stop
  autoseekActive := false
  autoseekTarget := 0#32
  autoseekDirection := .forward
  autoseekStart := 0#64
  mode := .x1
  lastMotionTime := 0#64
  clickAccum := 0#32
  tracksPerClick := p.tracksPerClickReset
  soctPending := false
  soctEnabled := false

/-- R31, R32. -/
def subq : Subchannel where
  consumed := true
  lane := { w0 := 0#32, w1 := 0#32, w2 := 0#32 }

/-- R33 to R35, R56. -/
def command (p : Params) : Command where
  latch := 0#24
  sens := p.sensReset
  currentSens := 0#4
  cmdQueue := []

/-- R37 to R39. -/
def auth : Auth where
  phase := .idle
  phaseStart := 0#64
  counter := 0#32
  lastCheck := 0#64
  line := true

/-- An invalid slot (R40); its key and buffer are the model's values for elements the spec leaves unspecified and no rule reads
(notes/assumptions/5.md). -/
def slot : Slot where
  valid := false
  key := 0#32
  buf := List.replicate 1176 0#16

/-- A frame of zeros (R42). -/
def frame : List U32 := List.replicate 1176 0#32

/-- R25, R40 to R44, R55. -/
def streamer : Streamer where
  phase := .startup
  cache := List.replicate 50 slot
  writeCursor := 0#8
  frame0 := frame
  frame1 := frame
  activeIdx := 0#1
  playingSector := 0#32
  preparedSector := 0#32
  clockEdges := 0#2
  drainPending := false
  wclkLevel := false
  loadedImage := 0#32

/-- R49 to R51. -/
def inputs : Inputs where
  imageIndex := 0#32
  controlMode := .normal
  overrideFlag := false

/-- The key before KEYGEN and the layout before the first load are unspecified and no rule reads them (R45, R48); these are the
model's values (notes/assumptions/5.md). -/
def scrambleKey : List U16 := List.replicate 1176 0#16

/-- See `scrambleKey`. -/
def layout : Layout where
  tracks := []
  trackCount := 0#8
  hasData := false

/-- The shared values a stale read may see after reset: the reset values themselves. -/
def old : OldShared where
  sector := 0#32
  currentLogicalTrack := 1#8
  imageIndex := 0#32

end Reset

/-- Every element of 10_state.md at its reset value, everything else as it was: the first line of R361. -/
def State.withResetElements (s : State) : State :=
  { s with
    pos := Reset.position
    ctrlPhase := .startup
    motion := Reset.motion s.params
    subq := Reset.subq
    cmd := Reset.command s.params
    auth := Reset.auth
    strm := Reset.streamer
    scrambleKey := Reset.scrambleKey
    layout := Reset.layout
    inputs := Reset.inputs
    halted := false
    haltCause := .none
    ctrlReady := false
    strmReady := false
    old := Reset.old }

/-- The machine before its first `POWERON` (R375), with parameters `p`: no event but `POWERON` is accepted. -/
def State.powerOff (p : Params) : State where
  pos := Reset.position
  ctrlPhase := .startup
  motion := Reset.motion p
  subq := Reset.subq
  cmd := Reset.command p
  auth := Reset.auth
  strm := Reset.streamer
  scrambleKey := Reset.scrambleKey
  layout := Reset.layout
  inputs := Reset.inputs
  halted := false
  haltCause := .none
  ctrlReady := false
  strmReady := false
  params := p
  poweredOn := false
  old := Reset.old
  storage := []
  now := 0#64
  operands := []
  draws := Draws.plain
  trace := []
  out := { dataOut := [], subqOut := [], probeOut := [], diag := [], reads := [] }

/-- The machine right after reset: the reset state of R360, in which a successful `POWERON` leaves a CORE with the simulation parameters of
95_test_vectors.md section 2.2 (section 9 there: "the state after it is the reset state of 70_reset_and_hazards.md rule R360").
The statement `Obligations.ResetIsWhatPoweronLeaves` says that executing `POWERON` before any other event gives exactly this state. -/
def State.reset : State :=
  { State.powerOff Config.simulation with
    ctrlPhase := .top
    strm := { Reset.streamer with phase := .prepare }
    scrambleKey := keygen Config.simulation
    layout := installed Config.simulation (imageAt Config.simulation 0#32)
    ctrlReady := true
    strmReady := true
    poweredOn := true }

end Sys2Proof.Machine
end

