-- ==== Sys2Proof/Machine/Flags.lean ====
section
/-! DEFINITION. Sys2Proof/Machine/Flags.lean: the SENS flags (R34, R104) and the Bool outputs derived from state (R54, R247). -/

namespace Sys2Proof.Machine

/-- `sens[q]` (R34). -/
def sensBit (v : U16) (q : BitVec 4) : Bool := v.getLsbD q.toNat

/-- `sens[q] <- b` (R255). -/
def setSensBit (v : U16) (q : BitVec 4) (b : Bool) : U16 :=
  if b then v ||| (1#16 <<< q.toNat) else v &&& ~~~(1#16 <<< q.toNat)

/-- `sens[q] <- not sens[q]` (R237, R238). -/
def toggleSensBit (v : U16) (q : BitVec 4) : U16 := setSensBit v q (!sensBit v q)

/-- The SENS output level `sensOut = sens[currentSens]` (R54). -/
def State.sensOut (s : State) : Bool := sensBit s.cmd.sens s.cmd.currentSens

/-- The limit-switch output `limitOut = (Position.sector > 3000)` (R54, R247). -/
def State.limitOut (s : State) : Bool := s.pos.sector.toInt > Config.limitSector

/-- The focus/good-signal flag, which gates play and authentication (R232, R280). -/
def State.fok (s : State) : Bool := sensBit s.cmd.sens s.params.sensFok

end Sys2Proof.Machine
end

