-- ==== Sys2Proof/Machine/Operands.lean ====
section
/-! DEFINITION. Sys2Proof/Machine/Operands.lean: the wide operands a trace line carries (R100, R116). A line of an operation that takes wide operands must
carry exactly those, each a value of its type, or it is refused; an operation that takes none ignores any its line carries
(THE MODEL'S CHOICE, notes/assumptions/6.md). -/

namespace Sys2Proof.Machine

/-- One `i32` operand. -/
def i32Operand (ops : List Int) : Option I32 :=
  match ops with
  | [x] => if fitsI32 x then some (BitVec.ofInt 32 x) else none
  | _ => none

/-- One integer operand, any value: a logical track number (R137). -/
def intOperand (ops : List Int) : Option Int :=
  match ops with
  | [x] => some x
  | _ => none

/-- One `u16` operand. -/
def u16Operand (ops : List Int) : Option U16 :=
  match ops with
  | [x] => if 0 ≤ x ∧ x < 65536 then some (BitVec.ofInt 16 x) else none
  | _ => none

/-- A `u16` and an index: the operands of SCRAMBLE (R203). -/
def sampleAndIndex (ops : List Int) : Option (U16 × Int) :=
  match ops with
  | [x, i] => if 0 ≤ x ∧ x < 65536 then some (BitVec.ofInt 16 x, i) else none
  | _ => none

/-- `n` byte operands (R167, R170). -/
def byteOperands (n : Nat) (ops : List Int) : Option (List Byte) :=
  if ops.length = n ∧ ops.all (fun x => 0 ≤ x ∧ x < 256) then some (ops.map (BitVec.ofInt 8)) else none

/-! ## The operands of LOAD -/

/-- One entry of a description from its six numbers, in the order R132 lists them: the type by its code (R114), four `i32` values, and the stream's handle. -/
def trackOfOperands (kind index0 index1 fileOffset size stream : Int) : Option Track :=
  match trackTypeOfCode kind, i32Operand [index0], i32Operand [index1], i32Operand [fileOffset], i32Operand [size] with
  | some k, some a, some b, some c, some d =>
    if 0 ≤ stream then
      some { trackType := k, index0 := a, index1 := b, fileOffset := c, size := d, stream := some stream.toNat }
    else none
  | _, _, _, _, _ => none

/-- The entries of a description, `(trackType, index0, index1, fileOffset, size, stream)` for tracks 1..T, six numbers each (R132, R116). -/
def trackOperands : List Int → Option (List Track)
  | [] => some []
  | kind :: index0 :: index1 :: fileOffset :: size :: stream :: rest =>
    match trackOfOperands kind index0 index1 fileOffset size stream, trackOperands rest with
    | some e, some es => some (e :: es)
    | _, _ => none
  | _ => none

/-! ## Placed words -/

/-- In-range operands for an operation's trace line, used where a word is placed without a trace of its own
(`State.withFetchWord`): zeros, but 1 for the logical track of `P_IS_DATA`, whose range begins at 1 (R137), and no entry for `P_LOAD`. -/
def plainOperands : Instr → List Int
  | .pTrackOf | .pMsf | .pBcd | .pSubq | .pCondition | .pSectorOfTrack | .pSectorsPerTrack | .pLookup => [0]
  | .pIsData => [1]
  | .pScramble => [0, 0]
  | .pCrc => List.replicate 10 0
  | .pPack => List.replicate 12 0
  | .xSeek _ => [0]
  | .poweron | .envCmd _ | .envOverride _ | .envCtlmode _ | .envImage _ | .envDrained | .envSubqTaken | .envWclk _
  | .ctrlIter | .ctrlLatch | .ctrlChain | .ctrlSoct | .ctrlSled | .ctrlSeekdone | .ctrlPlay | .ctrlAuthchk | .ctrlAuthstep
  | .strmPrepare | .strmSwap | .strmReload | .pLoad | .pKeygen
  | .xSled _ | .xMode _ | .xClicks _ | .xSoct | .xSens _ _ | .cmd8 _ => []

end Sys2Proof.Machine
end

