-- ==== Sys2Proof/Machine/Ops.lean ====
section
/-! DEFINITION. Sys2Proof/Machine/Ops.lean: the shared operations over the state: the storage streams (R71, R72), the fetch of the next trace
line (R102, R116, R375), the diagnostic log (R330), the fatal halt (R16, R331), storing a clamped position (R235), and the shared reads of
STRM (R83). -/

namespace Sys2Proof.Machine

/-! ## Storage streams

A stream's contents are a list of (offset, byte) cells in canonical form: offsets strictly rising, no cell equal to what an unlisted offset
reads as. The CORE never writes a stream (R14); the write below is the environment's, for setting one up. -/

/-- What an unlisted offset of every stream reads as: offset mod 256, the storage of 95_test_vectors.md section 2.1
(notes/assumptions/7.md). -/
def blankByte (addr : Nat) : Byte := BitVec.ofNat 8 addr

/-- Set, replace or remove the entry of a key in a list sorted by key. -/
def assocSet {α : Type} (k : Nat) (v : Option α) : List (Nat × α) → List (Nat × α)
  | [] => match v with
    | some x => [(k, x)]
    | none => []
  | (j, y) :: rest =>
    if j < k then (j, y) :: assocSet k v rest
    else
      let tail := if j = k then rest else (j, y) :: rest
      match v with
      | some x => (k, x) :: tail
      | none => tail

/-- Keys strictly rising, every key above `lo`. -/
def keysRise {α : Type} : Option Nat → List (Nat × α) → Bool
  | _, [] => true
  | none, (j, _) :: rest => keysRise (some j) rest
  | some lo, (j, _) :: rest => (lo < j : Bool) && keysRise (some j) rest

/-- The canonical form of one stream's contents. -/
def Memory.wf (m : Memory) : Bool :=
  keysRise none m && m.all (fun c => c.2 != blankByte c.1)

/-- The byte at an offset of a stream. -/
def Memory.read (m : Memory) (addr : Nat) : Byte :=
  match m.lookup addr with
  | some b => b
  | none => blankByte addr

/-- Write the byte at an offset, keeping the canonical form. -/
def Memory.write (m : Memory) (addr : Nat) (b : Byte) : Memory :=
  assocSet addr (if b = blankByte addr then none else some b) m

/-- The canonical form of the streams: handles strictly rising, none empty, each in canonical form. -/
def Storage.wf (st : Storage) : Bool :=
  keysRise none st && st.all (fun e => Memory.wf e.2 && !e.2.isEmpty)

/-- The contents of a stream. -/
def Storage.stream (st : Storage) (h : Nat) : Memory :=
  match st.lookup h with
  | some m => m
  | none => []

/-- The byte at an offset of the stream with handle `h` (R71). -/
def Storage.read (st : Storage) (h addr : Nat) : Byte := (st.stream h).read addr

/-- Write one byte of a stream, keeping the canonical form. -/
def Storage.write (st : Storage) (h addr : Nat) (b : Byte) : Storage :=
  let m := (st.stream h).write addr b
  assocSet h (if m.isEmpty then none else some m) st

/-- `n` bytes of a stream from an offset. -/
def Storage.readRange (st : Storage) (h addr n : Nat) : List Byte :=
  (List.range n).map (fun i => st.read h (addr + i))

/-! ## The diagnostic log and the outputs -/

/-- The code of R330. -/
def Diag.code : Diag → Byte
  | .mountFailure => 0x01#8
  | .seekRewound => 0x10#8
  | .seekFailed => 0x11#8
  | .readFailed => 0x12#8
  | .shortRead => 0x13#8
  | .positionNegative => 0x20#8
  | .positionHigh => 0x21#8
  | .loadOpen => 0x30#8
  | .loadMalformed => 0x31#8

/-- The code `haltCause` records (R331), 0 for none. -/
def HaltCause.code : HaltCause → Byte
  | .none => 0x00#8
  | .mountFailure => 0x01#8

/-- Append to the diagnostic log (R330: optional, no rule reads it). -/
def State.note (s : State) (ds : List Diag) : State :=
  { s with out := { s.out with diag := s.out.diag ++ ds } }

/-- Give a probe's result: a probe changes no state (R101), its result is an output. -/
def State.answer (s : State) (r : ProbeResult) : State :=
  { s with out := { s.out with probeOut := s.out.probeOut ++ [r] } }

/-! ## The fatal halt -/

/-- `raise Fatal(cause)` (R16, R331), the CORE's only trap-like operation: the halted flag and its cause are set, nothing else. No condition
transfers control to a handler and there is no return (R336); only `POWERON` clears the flag (R52). -/
def State.raiseFatal (s : State) (cause : HaltCause) : State :=
  { s with halted := true, haltCause := cause }

/-! ## Position -/

/-- Store the exact position values of a branch body in their `i32` elements; `currentLogicalTrack` is none of them. -/
def State.setPosition (s : State) (e : ExactPos) : State :=
  { s with
    pos := { s.pos with
      sector := narrowI32 e.sector, track := narrowI32 e.track, sectorForTrackUpdate := narrowI32 e.sectorForTrackUpdate } }

/-- The position values a branch body starts from. -/
def State.exactPos (s : State) : ExactPos where
  sector := s.pos.sector.toInt
  track := s.pos.track.toInt
  sectorForTrackUpdate := s.pos.sectorForTrackUpdate.toInt

/-- What the diagnostic log says of a clamp (R330, codes 0x20 and 0x21). -/
def clampDiag (p : Params) (e : ExactPos) : List Diag :=
  if clampNegative e then [.positionNegative] else if clampHigh p e then [.positionHigh] else []

/-- The end of every branch body: CLAMP (R235) of the body's exact values, then the store (notes/assumptions/3.md). -/
def State.finishAt (s : State) (e : ExactPos) : State :=
  (s.setPosition (clampPos s.params e)).note (clampDiag s.params e)

/-! ## Time -/

/-- `now() - start` on `u64` (R340). -/
def State.since (s : State) (start : Time) : Nat := (s.now - start).toNat

/-! ## Shared fields -/

/-- The start of a CTRL iteration: what CTRL wrote before it is visible from now on (R87(1)), so a stale read sees at most the values of this
moment (R83; notes/assumptions/8.md). -/
def State.beginIteration (s : State) : State :=
  { s with
    old := { sector := s.pos.sector
             currentLogicalTrack := s.pos.currentLogicalTrack
             imageIndex := s.inputs.imageIndex } }

/-- STRM's read of `Position.sector` (R83, R198). -/
def State.sharedSector (s : State) : I32 :=
  if s.draws.staleSector then s.old.sector else s.pos.sector

/-- STRM's read of `Position.currentLogicalTrack` (R83, R193). -/
def State.sharedTrack (s : State) : Byte :=
  if s.draws.staleTrack then s.old.currentLogicalTrack else s.pos.currentLogicalTrack

/-- The reload check's read of `imageIndex` (R83, R200). -/
def State.sharedImage (s : State) : U32 :=
  if s.draws.staleImage then s.old.imageIndex else s.inputs.imageIndex

/-- RELOAD's read of `imageIndex` for the image to install (R83, R205). Each shared read is a draw of its own, so it may differ from the one the
check made (notes/assumptions/8.md). -/
def State.reloadImage (s : State) : U32 :=
  if s.draws.staleReload then s.old.imageIndex else s.inputs.imageIndex

/-! ## The sector period -/

/-- `SECTOR_PERIOD_US(mode)` (R311). No rule reads it: the CORE's rules hold for any timing of the transport. -/
def State.sectorPeriodUs (s : State) : Rat :=
  match s.motion.mode with
  | .x1 => s.params.sectorPeriodUs1x
  | .x2 => s.params.sectorPeriodUs2x

/-! ## Fetch -/

/-- The line taken: its time is `now()`, its operands and draws are those of the operation. -/
def State.takeLine (s : State) (l : TraceLine) (rest : List TraceLine) : State :=
  { s with trace := rest, now := l.time, operands := l.operands, draws := l.draws }

/-- Whether an operation may run now: before the first `POWERON` nothing else may (R375). -/
def admitted (i : Instr) (s : State) : Bool := s.poweredOn || i == .poweron

/-- The next trace line (R116, executed in order): decoded, refused where it spells no operation (R102), goes back in time (R116, R88) or comes
before the first `POWERON` (R375). An ended trace gives no event. -/
def fetch (s : State) : Fetched :=
  match s.trace with
  | [] => .idle
  | l :: rest =>
    if l.time < s.now then .refused .timeDecreases
    else
      match decode l.word with
      | .reserved op arg => .refused (.reserved op arg)
      | .op i => if admitted i s then .run i (s.takeLine l rest) else .refused .beforePowerOn

/-- A line at the present time for a word, with in-range operands and plain draws. -/
def plainLine (now : Time) (w : EventWord) : TraceLine where
  time := now
  word := w
  operands := match decode w with
    | .op i => plainOperands i
    | .reserved _ _ => []
  draws := Draws.plain

end Sys2Proof.Machine
end

