-- ==== Sys2Proof/Machine/Effect.lean ====
section
/-! DEFINITION. Sys2Proof/Machine/Effect.lean: the six motion effects (R249 to R255) and the `X_` operations that inject one (R101, class X). -/

namespace Sys2Proof.Machine

/-! ## The effects -/

/-- `SledSet(d)` (R250). -/
def State.sledSet (s : State) (d : SledDir) : State :=
  { s with motion := { s.motion with sledDirection := d } }

/-- `AutoseekStart(target, dir)` (R251). -/
def State.autoseekStart (s : State) (target : I32) (dir : SeekDir) : State :=
  { s with
    motion := { s.motion with
      autoseekActive := true, autoseekTarget := target, autoseekDirection := dir, autoseekStart := s.now }
    cmd := { s.cmd with sens := setSensBit s.cmd.sens s.params.sensXbusy true } }

/-- `ModeSet(m)` (R252). -/
def State.modeSet (s : State) (m : SpeedMode) : State :=
  { s with motion := { s.motion with mode := m } }

/-- `ClickCountSet(n)` (R253). -/
def State.clickCountSet (s : State) (n : U32) : State :=
  { s with motion := { s.motion with tracksPerClick := n } }

/-- `SoctRequest` (R254). -/
def State.soctRequest (s : State) : State :=
  { s with motion := { s.motion with soctPending := true, soctEnabled := true } }

/-- `SensWrite(q, v)` (R255). -/
def State.sensWrite (s : State) (q : BitVec 4) (v : Bool) : State :=
  { s with cmd := { s.cmd with sens := setSensBit s.cmd.sens q v } }

/-- One effect (R249). -/
def State.applyEffect (s : State) (e : Effect) : State :=
  match e with
  | .sledSet d => s.sledSet d
  | .autoseekStart target dir => s.autoseekStart target dir
  | .modeSet m => s.modeSet m
  | .clickCountSet n => s.clickCountSet n
  | .soctRequest => s.soctRequest
  | .sensWrite q v => s.sensWrite q v

/-- `APPLY(effects)` (R249): one after another in list order. -/
def State.applyEffects (s : State) (es : List Effect) : State := es.foldl State.applyEffect s

/-- An injected effect (R249): at once, when `halted` is false, in any `ctrlPhase`; otherwise nothing changes. -/
def inject (s : State) (e : Effect) : Host.Outcome State Fault Refusal :=
  if s.halted then .next s else .next (s.applyEffect e)

/-! ## The operations -/

/-- `X_SLED d` (R250). -/
def execXSled (d : SledDir) (s : State) : Host.Outcome State Fault Refusal := inject s (.sledSet d)

/-- `X_SEEK dir target` (R251); the target is the line's wide operand (R116). -/
def execXSeek (dir : SeekDir) (s : State) : Host.Outcome State Fault Refusal :=
  match i32Operand s.operands with
  | some target => inject s (.autoseekStart target dir)
  | none => .refused .badOperands

/-- `X_MODE m` (R252). -/
def execXMode (m : SpeedMode) (s : State) : Host.Outcome State Fault Refusal := inject s (.modeSet m)

/-- `X_CLICKS n` (R253), n in 1..255; 0 is reserved (R101, R102). -/
def execXClicks (n : Byte) (s : State) : Host.Outcome State Fault Refusal :=
  if n = 0#8 then .refused .reservedOperand else inject s (.clickCountSet (n.setWidth 32))

/-- `X_SOCT` (R254). -/
def execXSoct (s : State) : Host.Outcome State Fault Refusal := inject s .soctRequest

/-- `X_SENS q v` (R255). -/
def execXSens (q : BitVec 4) (v : Bool) (s : State) : Host.Outcome State Fault Refusal := inject s (.sensWrite q v)

end Sys2Proof.Machine
end

