-- ==== Sys2Proof/Machine/Env.lean ====
section
/-! DEFINITION. Sys2Proof/Machine/Env.lean: the environment's inputs (R101, class E, but for POWERON). An environment event takes effect in
every phase and when halted (R331). -/

namespace Sys2Proof.Machine

/-- `ENV_CMD b` (R244): the byte is appended to `cmdQueue` and nothing else changes. -/
def execEnvCmd (b : Byte) (s : State) : Host.Outcome State Fault Refusal :=
  .next { s with cmd := { s.cmd with cmdQueue := s.cmd.cmdQueue ++ [b] } }

/-- `ENV_OVERRIDE v` (R293). -/
def execEnvOverride (v : Bool) (s : State) : Host.Outcome State Fault Refusal :=
  .next { s with inputs := { s.inputs with overrideFlag := v } }

/-- `ENV_CTLMODE m` (R171). -/
def execEnvCtlmode (m : ControlMode) (s : State) : Host.Outcome State Fault Refusal :=
  .next { s with inputs := { s.inputs with controlMode := m } }

/-- `ENV_IMAGE n` (R363): the selection changes; a stale read by STRM may still see the value before a change (R83). An `ENV_IMAGE` with
the current value is not a swap. -/
def execEnvImage (n : Byte) (s : State) : Host.Outcome State Fault Refusal :=
  if n.setWidth 32 = s.inputs.imageIndex then .next s
  else
    .next { s with
      inputs := { s.inputs with imageIndex := n.setWidth 32 }
      old := { s.old with imageIndex := s.inputs.imageIndex } }

/-- The frame `activeIdx` names (R42). -/
def Streamer.activeFrame (m : Streamer) : List U32 :=
  if m.activeIdx = 0#1 then m.frame0 else m.frame1

/-- The multiplex (R315): the k-th data frame with the k-th subchannel group taken, as both lanes advance once per sector period
(notes/assumptions/15.md). It stops at the word level. -/
def Outputs.multiplex (o : Outputs) : List (List U32 × Lane) := o.dataOut.zip o.subqOut

/-- `ENV_DRAINED` (R312): the active frame has gone out; STRM waiting for the report starts counting clock edges, otherwise the report is
remembered. -/
def execEnvDrained (s : State) : Host.Outcome State Fault Refusal :=
  .next { s with
    out := { s.out with dataOut := s.out.dataOut ++ [s.strm.activeFrame] }
    strm :=
      if s.strm.phase = .waitDrain then { s.strm with clockEdges := 0#2, phase := .waitClock }
      else { s.strm with drainPending := true } }

/-- `ENV_SUBQ_TAKEN` (R313): the lane words have gone out. -/
def execEnvSubqTaken (s : State) : Host.Outcome State Fault Refusal :=
  .next { s with
    out := { s.out with subqOut := s.out.subqOut ++ [s.subq.lane] }
    subq := { s.subq with consumed := true } }

/-- `ENV_WCLK v` (R314): a transition is counted, up to two, while STRM waits to swap. -/
def execEnvWclk (v : Bool) (s : State) : Host.Outcome State Fault Refusal :=
  if v = s.strm.wclkLevel then .next s
  else
    .next { s with
      strm := { s.strm with
        wclkLevel := v
        clockEdges :=
          if s.strm.phase = .waitClock ∧ s.strm.clockEdges < 2#2 then s.strm.clockEdges + 1#2 else s.strm.clockEdges } }

end Sys2Proof.Machine
end

