-- ==== Sys2Proof/Machine/Latch.lean ====
section
/-! DEFINITION. Sys2Proof/Machine/Latch.lean: command-latch servicing (R245 to R248) and the command byte `CMD8` (R103). -/

namespace Sys2Proof.Machine

/-- `VIEW` (R248). -/
def State.view (s : State) : View where
  track := s.pos.track
  sector := s.pos.sector
  sledDirection := s.motion.sledDirection
  autoseekActive := s.motion.autoseekActive
  mode := s.motion.mode
  sens := s.cmd.sens
  tracksPerClick := s.motion.tracksPerClick

/-- Whether a row of the `decodeLatch` table covers a latch and a view. -/
def rowCovers (r : LatchRow) (latch : BitVec 24) (v : View) : Bool :=
  r.latch == latch && (match r.view with
    | none => true
    | some w => w == v)

/-- `decodeLatch(latch, b, VIEW)` (R248), the OPEN function as a table. The byte is `latch[23:16]` at every call (R245), so it is no key
of its own. The empty table is the simulation default. -/
def decodeLatch (table : List LatchRow) (latch : BitVec 24) (v : View) : List Effect :=
  match table.find? (fun r => rowCovers r latch v) with
  | some r => r.effects
  | none => []

/-- The latch after a byte: `(latch >> 8) | (byte << 16)` (R33, R245). -/
def latchShift (latch : BitVec 24) (b : Byte) : BitVec 24 :=
  (latch >>> 8) ||| (b.setWidth 24 <<< 16)

/-- What servicing one byte does under the lock (R245): the latch, the SENS selection (R246), and the effects. -/
def State.serviceByte (s : State) (b : Byte) : State :=
  let s := { s with cmd := { s.cmd with latch := latchShift s.cmd.latch b, currentSens := b.extractLsb' 4 4 } }
  s.applyEffects (decodeLatch s.params.decodeLatch s.cmd.latch s.view)

/-- The loop of `LATCH_SERVICE` (R245) over the queued bytes; `contended` counts the attempts that succeed before one fails (R84). On a
failed attempt the byte stays queued, or is dropped when `LOCK_DROP_ON_CONTENTION`, and the rest of the service is skipped. -/
def State.serviceQueue (s : State) (contended : Option Nat) : List Byte → State
  | [] => { s with cmd := { s.cmd with cmdQueue := [] } }
  | b :: rest =>
    match contended with
    | some 0 =>
      { s with cmd := { s.cmd with cmdQueue := if s.params.lockDropOnContention then rest else b :: rest } }
    | some (k + 1) => (s.serviceByte b).serviceQueue (some k) rest
    | none => (s.serviceByte b).serviceQueue none rest

/-- `LATCH_SERVICE` (R245). -/
def State.latchService (s : State) : State := s.serviceQueue s.draws.lockContendedAt s.cmd.cmdQueue

/-- `CTRL_LATCH` (R245): one latch service. CTRL services the latch only in `Top` (R230, R292) and never when halted (R331). -/
def execCtrlLatch (s : State) : Host.Outcome State Fault Refusal :=
  if s.halted then .next s
  else
    match s.ctrlPhase with
    | .top => .next s.latchService
    | .startup => .next s
    | .soctSettle _ => .next s
    | .playDelay _ => .next s
    | .auth => .next s

/-- `CMD8` (R103): a command byte arrives (R244) and, where CTRL is in `Top`, its latch service takes it (R245), after the bytes already
queued and under the same lock draws; where CTRL is blocked it stays queued (R292; notes/assumptions/9.md). -/
def execCmd8 (b : Byte) (s : State) : Host.Outcome State Fault Refusal :=
  execCtrlLatch { s with cmd := { s.cmd with cmdQueue := s.cmd.cmdQueue ++ [b] } }

end Sys2Proof.Machine
end

