-- ==== Sys2Proof/Machine/Psnee.lean ====
section
/-! DEFINITION. Sys2Proof/Machine/Psnee.lean: the authentication generator (45_auth.md): the qualifying check, firing, the sequence and its abort. -/

namespace Sys2Proof.Machine

/-! ## Debounce and firing -/

/-- `INWIN` (R280): `AUTH_WIN_LO ≤ Position.sector < AUTH_WIN_HI`. -/
def State.inWindow (s : State) : Bool :=
  s.params.authWinLo ≤ s.pos.sector.toInt ∧ s.pos.sector.toInt < s.params.authWinHi

/-- `QUALIFIES` (R280). -/
def State.qualifies (s : State) : Bool :=
  s.inWindow && s.fok && !s.inputs.overrideFlag && !s.layout.hasData &&
    (Config.authDebounceUs ≤ s.since s.auth.lastCheck : Bool)

/-- `FIRE` (R282). -/
def State.fire (s : State) : State :=
  { s with
    ctrlPhase := .auth
    auth := { s.auth with counter := 0#32, phase := .leadLow, phaseStart := s.now, line := false } }

/-- `AUTH_CHECK` (R281). -/
def State.authCheck (s : State) : State :=
  if s.qualifies then
    let s := { s with auth := { s.auth with counter := s.auth.counter + 1#32, lastCheck := s.now } }
    if s.auth.counter.toNat > Config.authFireThreshold then s.fire else s
  else s

/-! ## The sequence -/

/-- `AUTH_PATTERN[k]` for k = trem(r, 3) (R283, R291). -/
def authPattern (p : Params) (r : Fin 6) : BitVec 44 :=
  match r with
  | 0 => p.authPattern0
  | 1 => p.authPattern1
  | 2 => p.authPattern2
  | 3 => p.authPattern0
  | 4 => p.authPattern1
  | 5 => p.authPattern2

/-- The duration of a phase (R283), in microseconds; `Idle` is not a phase of a sequence. -/
def authDuration : AuthPhase → Nat
  | .idle => 0
  | .leadLow => Config.authLeadLowUs
  | .bit _ _ => Config.authBitUs
  | .gap _ => Config.authGapUs

/-- The line level of a phase (R283): low in the lead-in and the gaps, the pattern's bit in a bit cell, high when idle. -/
def authLevel (p : Params) : AuthPhase → Bool
  | .idle => true
  | .leadLow => false
  | .bit r i => (authPattern p r).getLsbD i.val
  | .gap _ => false

/-- The successor of a phase (R283); `idle` stands for `Done`. -/
def authSuccessor : AuthPhase → AuthPhase
  | .idle => .idle
  | .leadLow => .bit 0 0
  | .bit r i =>
    if h : i.val + 1 < 44 then .bit r ⟨i.val + 1, h⟩
    else if h : r.val < 5 then .gap ⟨r.val, h⟩
    else .idle
  | .gap r => .bit ⟨r.val + 1, by omega⟩ 0

/-- `ABORT_COND` (R288). -/
def State.abortCond (s : State) : Bool := !s.inWindow || s.inputs.overrideFlag

/-- `ABORT` (R289), and the caller's idling (R290): the line ends low, or high when `AUTH_IDLE_AFTER_ABORT`. -/
def State.abort (s : State) : State :=
  { s with
    ctrlPhase := .top
    auth := { s.auth with phase := .idle, line := s.params.authIdleAfterAbort } }

/-- Completion (R287): the line returns to idle high and CTRL resumes its loop. -/
def State.authDone (s : State) : State :=
  { s with ctrlPhase := .top, auth := { s.auth with phase := .idle, line := true } }

/-- The next phase, started on the schedule (R283). -/
def State.authAdvance (s : State) (nxt : AuthPhase) : State :=
  { s with
    auth := { s.auth with
      phaseStart := s.auth.phaseStart + BitVec.ofNat 64 (authDuration s.auth.phase)
      phase := nxt
      line := authLevel s.params nxt } }

/-- What `AUTH_STEP` does at a phase boundary (R283): the abort test comes before the completion (R337). -/
def State.authBoundary (s : State) : State :=
  if s.abortCond then s.abort
  else if authSuccessor s.auth.phase = .idle then s.authDone
  else s.authAdvance (authSuccessor s.auth.phase)

/-- `AUTH_STEP` (R283), while `ctrlPhase = Auth`. No run has `ctrlPhase = Auth` with `authPhase = Idle`; there nothing changes. -/
def State.authStep (s : State) : State :=
  if s.auth.phase = .idle then s
  else if s.since s.auth.phaseStart < authDuration s.auth.phase then s
  else s.authBoundary

/-! ## The operations -/

/-- `CTRL_AUTHCHK` (R281): the check, only when `ctrlPhase = Top`. -/
def execCtrlAuthchk (s : State) : Host.Outcome State Fault Refusal :=
  if s.halted then .next s
  else
    match s.ctrlPhase with
    | .top => .next s.authCheck
    | .startup => .next s
    | .soctSettle _ => .next s
    | .playDelay _ => .next s
    | .auth => .next s

/-- `CTRL_AUTHSTEP` (R283): one step of the sequence; nothing to do when `ctrlPhase ≠ Auth`. -/
def execCtrlAuthstep (s : State) : Host.Outcome State Fault Refusal :=
  if s.halted then .next s
  else
    match s.ctrlPhase with
    | .auth => .next s.authStep
    | .startup => .next s
    | .top => .next s
    | .soctSettle _ => .next s
    | .playDelay _ => .next s

end Sys2Proof.Machine
end

