-- ==== Sys2Proof/Machine/Ctrl.lean ====
section
/-! DEFINITION. Sys2Proof/Machine/Ctrl.lean: the CTRL iteration, its priority chain and the four branch bodies (44_position.md sections 1 to 3). -/

namespace Sys2Proof.Machine

/-! ## Branch bodies -/

/-- `SOCT_BEGIN` (R236). -/
def State.soctBegin (s : State) : State :=
  { s with ctrlPhase := .soctSettle (s.now.toNat + s.params.soctSettleUs) }

/-- `SOCT_FINISH`, and the return to `Top` (R230, R236). -/
def State.soctFinish (s : State) : State :=
  { ({ s with motion := { s.motion with soctPending := false, soctEnabled := false } } : State).finishAt s.exactPos with
    ctrlPhase := .top }

/-- The track after a sled step (R237). -/
def sledTrack (d : SledDir) (t : Int) : Int :=
  match d with
  | .forward => t + 1
  | .reverse => t - 1
  | .stop => t - 1

/-- The click part of a sled step (R237): one more track, and at `tracksPerClick` the click bit toggles and the count restarts. -/
def State.sledClick (s : State) : State :=
  if s.motion.clickAccum + 1#32 ≥ s.motion.tracksPerClick then
    { s with
      motion := { s.motion with clickAccum := 0#32 }
      cmd := { s.cmd with sens := toggleSensBit s.cmd.sens s.params.sensClick } }
  else { s with motion := { s.motion with clickAccum := s.motion.clickAccum + 1#32 } }

/-- Branch 2, `SLED` (R237). -/
def State.sled (s : State) : State :=
  if s.since s.motion.lastMotionTime < s.params.trackMoveIntervalUs then s
  else
    let t := sledTrack s.motion.sledDirection s.pos.track.toInt
    ({ s with motion := { s.motion with lastMotionTime := s.now } } : State).sledClick.finishAt
      { sector := sectorOfTrackInt t, track := t, sectorForTrackUpdate := sectorOfTrackInt t }

/-- The time an autoseek needs (R238): the remaining track delta at a fixed time per track. -/
def State.seekTimeUs (s : State) : Nat :=
  (s.motion.autoseekTarget.toInt - s.pos.track.toInt).natAbs * s.params.autoseekPerTrackUs

/-- Branch 3, `SEEKDONE` (R238). -/
def State.seekdone (s : State) : State :=
  if s.since s.motion.autoseekStart < s.seekTimeUs then s
  else
    let t := s.motion.autoseekTarget.toInt
    ({ s with
        motion := { s.motion with autoseekActive := false }
        cmd := { s.cmd with
          sens := setSensBit (toggleSensBit s.cmd.sens s.params.sensClick) s.params.sensXbusy false } } : State).finishAt
      { sector := sectorOfTrackInt t, track := t, sectorForTrackUpdate := sectorOfTrackInt t }

/-- The position after one play advance, before CLAMP (R239): the capacity test uses the sector just reached and the track before it. -/
def playAdvance (e : ExactPos) : ExactPos :=
  if sectorsPerTrackInt e.track ≤ e.sector + 1 - e.sectorForTrackUpdate then
    { sector := e.sector + 1, track := e.track + 1, sectorForTrackUpdate := e.sector + 1 }
  else { e with sector := e.sector + 1 }

/-- Branch 4, `PLAY` (R239). -/
def State.play (s : State) : State :=
  if s.subq.consumed then
    { s.finishAt (playAdvance s.exactPos) with ctrlPhase := .playDelay (s.now.toNat + s.params.subqDelayUs) }
  else s

/-- The transmission of a generated block (R241). -/
def State.transmit (s : State) (r : SubqResult) : State :=
  { s with
    pos := { s.pos with
      currentLogicalTrack := match r.lookup with
        | some t => BitVec.ofNat 8 t
        | none => s.pos.currentLogicalTrack }
    subq := { consumed := false, lane := pack r.raw } }

/-- `SUBQ_TX` (R241), and the return to `Top` (R230). -/
def State.subqTx (s : State) : Host.Outcome State Fault Refusal :=
  match Sys2Proof.Machine.subq s.params s.layout s.inputs.controlMode s.pos.sector.toInt with
  | some r => .next { s.transmit r with ctrlPhase := .top }
  | none => .refused .noSuchPoint

/-! ## The chain -/

/-- The branch `CHAIN` selects (R232). -/
inductive Branch where
  | soct | sled | seekdone | play | skip
deriving DecidableEq, Repr

/-- The first guard that holds, in priority order (R232). -/
def State.branch (s : State) : Branch :=
  if s.motion.soctPending then .soct
  else if s.motion.sledDirection ≠ .stop then .sled
  else if s.motion.autoseekActive then .seekdone
  else if s.fok then .play
  else .skip

/-- The body of a branch; `skip` changes nothing (R240). -/
def State.runBranch (s : State) (b : Branch) : State :=
  match b with
  | .soct => s.soctBegin
  | .sled => s.sled
  | .seekdone => s.seekdone
  | .play => s.play
  | .skip => s

/-- `CHAIN` (R232). -/
def State.chain (s : State) : State := s.runBranch s.branch

/-- The one branch body that an event of R232 asks for, where CTRL is in `Top` and the chain would select that branch; otherwise nothing. -/
def onlyBranch (b : Branch) (s : State) : Host.Outcome State Fault Refusal :=
  if s.branch = b then .next (s.beginIteration.runBranch b) else .next s

/-! ## The operations -/

/-- `AUTH_CHECK` after a transmission. -/
def authCheckAfter : Host.Outcome State Fault Refusal → Host.Outcome State Fault Refusal
  | .next s => .next s.authCheck
  | .fault r => .fault r
  | .refused r => .refused r

/-- The `Top` case of an iteration (R230): latch service, one chain branch, and the authentication check when CTRL is still in `Top`. -/
def State.topIteration (s : State) : State :=
  let s := s.latchService.chain
  if s.ctrlPhase = .top then s.authCheck else s

/-- `CTRL_ITER` (R230). THE MODEL'S CHOICE (notes/assumptions/6.md): like every operation without a wide operand, it ignores any operand its trace line
carries after `arg` (`CTRL_ITER 0 5`), of which R116 says nothing. -/
def execCtrlIter (s : State) : Host.Outcome State Fault Refusal :=
  if s.halted then .next s
  else
    match s.ctrlPhase with
    | .startup => .next s
    | .top => .next s.beginIteration.topIteration
    | .soctSettle d => if d ≤ s.now.toNat then .next s.beginIteration.soctFinish.authCheck else .next s
    | .playDelay d => if d ≤ s.now.toNat then authCheckAfter s.beginIteration.subqTx else .next s
    | .auth => .next s.beginIteration.authStep

/-- `CTRL_CHAIN` (R232): the chain, in `Top`. -/
def execCtrlChain (s : State) : Host.Outcome State Fault Refusal :=
  if s.halted then .next s
  else
    match s.ctrlPhase with
    | .top => .next s.beginIteration.chain
    | .startup => .next s
    | .soctSettle _ => .next s
    | .playDelay _ => .next s
    | .auth => .next s

/-- `CTRL_SOCT` (R232, R236): branch 1, or the completion of a settle delay whose deadline has passed. -/
def execCtrlSoct (s : State) : Host.Outcome State Fault Refusal :=
  if s.halted then .next s
  else
    match s.ctrlPhase with
    | .top => onlyBranch .soct s
    | .soctSettle d => if d ≤ s.now.toNat then .next s.beginIteration.soctFinish else .next s
    | .startup => .next s
    | .playDelay _ => .next s
    | .auth => .next s

/-- `CTRL_SLED` (R232, R237): branch 2. -/
def execCtrlSled (s : State) : Host.Outcome State Fault Refusal :=
  if s.halted then .next s
  else
    match s.ctrlPhase with
    | .top => onlyBranch .sled s
    | .startup => .next s
    | .soctSettle _ => .next s
    | .playDelay _ => .next s
    | .auth => .next s

/-- `CTRL_SEEKDONE` (R232, R238): branch 3. -/
def execCtrlSeekdone (s : State) : Host.Outcome State Fault Refusal :=
  if s.halted then .next s
  else
    match s.ctrlPhase with
    | .top => onlyBranch .seekdone s
    | .startup => .next s
    | .soctSettle _ => .next s
    | .playDelay _ => .next s
    | .auth => .next s

/-- `CTRL_PLAY` (R232, R239): branch 4, or the transmission of a play delay whose deadline has passed. -/
def execCtrlPlay (s : State) : Host.Outcome State Fault Refusal :=
  if s.halted then .next s
  else
    match s.ctrlPhase with
    | .top => onlyBranch .play s
    | .playDelay d => if d ≤ s.now.toNat then s.beginIteration.subqTx else .next s
    | .startup => .next s
    | .soctSettle _ => .next s
    | .auth => .next s

end Sys2Proof.Machine
end

