-- ==== Sys2Proof/Machine/Startup.lean ====
section
/-! DEFINITION. Sys2Proof/Machine/Startup.lean: power-on (R360 to R362, R331) and INSTALL on the state (R132). -/

namespace Sys2Proof.Machine

/-- What the diagnostic log says of a load (R330, codes 0x30 and 0x31). -/
def loadDiag : LoadResult → List Diag
  | .ok _ => []
  | .errOpen => [.loadOpen]
  | .errMalformed => [.loadMalformed]

/-- `INSTALL(LOAD(IMAGE_TABLE[n]))` (R132, R135): tracks, trackCount and hasData, all together. -/
def State.install (s : State) (n : U32) : State :=
  ({ s with layout := installed s.params (imageAt s.params n) }).note (loadDiag (load s.params (imageAt s.params n)))

/-- `BARRIER` (R85, R362): when both agents are ready, each enters its loop. -/
def State.barrier (s : State) : State :=
  if s.ctrlReady && s.strmReady then
    { s with ctrlPhase := .top, strm := { s.strm with phase := .prepare } }
  else s

/-- The startup of both agents after a successful mount (R361): the key, SENS, the layout of the selected image, the ready flags, the barrier. -/
def State.startup (s : State) : State :=
  let s := { s with scrambleKey := keygen s.params, cmd := { s.cmd with sens := s.params.sensReset } }
  let s := s.install s.inputs.imageIndex
  let s := { s with strm := { s.strm with loadedImage := s.inputs.imageIndex }, ctrlReady := true, strmReady := true }
  s.barrier

/-- `POWERON` (R361): every element to its reset value, then the startup, or the fatal halt when the mount draw fails (R331). -/
def execPoweron (s : State) : Host.Outcome State Fault Refusal :=
  let s := { s.withResetElements with poweredOn := true }
  if s.draws.mountOk then .next s.startup
  else .next ((s.raiseFatal .mountFailure).note [.mountFailure])

end Sys2Proof.Machine
end

