-- ==== Sys2Proof/Machine/Strm.lean ====
section
/-! DEFINITION. Sys2Proof/Machine/Strm.lean: the SectorStreamer (43_streamer.md sections 2, 3 and 5): cache, storage read, PREPARE, SWAP, RELOAD. -/

namespace Sys2Proof.Machine

/-! ## Keys, tracks and the cache -/

/-- `KEYOF(s)` (R191). -/
def keyOf (p : Params) (s : I32) : I32 :=
  if s.toInt < p.leadInSectors then narrowI32 (s.toInt.tmod p.preleadinKeyMod) else s

/-- `LOOKUP(key)` (R192): the first valid slot with that key. -/
def lookup (cache : List Slot) (key : I32) : Option Nat := cache.findIdx? (fun c => c.valid && c.key == key)

/-- `TRACKSRC(s)` (R193). -/
def State.trackSource (s : State) (sector : I32) : Nat :=
  match s.params.streamerTrackSource with
  | .lookup => trackOf s.params s.layout sector.toInt
  | .logical =>
    if s.sharedTrack.toNat < 1 ∨ s.sharedTrack.toNat > leadOutNumber s.layout then 1 else s.sharedTrack.toNat

/-! ## Storage -/

/-- The storage address of a miss (R194). -/
def missAddr (key : I32) (e : Track) : Int := (key.toInt - e.fileOffset.toInt) * Config.sectorBytes

/-- What a sector read returns: its 2352 bytes, and the conditions of R330 it met. -/
structure SectorData where
  bytes : List Byte
  diag  : List Diag
deriving DecidableEq, Repr

/-- 2352 zero bytes. -/
def silence : List Byte := List.replicate Config.sectorBytes 0x00#8

/-- The `read` of R197 at an offset, after a seek that succeeded: Error gives silence, Ok(n) gives n bytes of the stream and zeros after them; a
`read` never answers more than 2352 bytes (R72), and a stream `none` answers Error (R135). -/
def State.readSector (s : State) (stream : Option Nat) (offset : Nat) : SectorData :=
  match stream, s.draws.readAnswer with
  | none, _ => { bytes := silence, diag := [.readFailed] }
  | some _, none => { bytes := silence, diag := [.readFailed] }
  | some h, some n =>
    { bytes := s.storage.readRange h offset (min n Config.sectorBytes) ++
        List.replicate (Config.sectorBytes - min n Config.sectorBytes) 0x00#8
      diag := if n < Config.sectorBytes then [.shortRead] else [] }

/-- `SECTOR_READ(stream, addr)` (R197): a failed seek rewinds to the stream's start, a failed rewind gives silence; a negative address always
fails (R72). -/
def State.sectorRead (s : State) (stream : Option Nat) (addr : Int) : SectorData :=
  if 0 ≤ addr ∧ s.draws.seekOk then s.readSector stream addr.toNat
  else if s.draws.rewindOk then
    { s.readSector stream 0 with diag := .seekRewound :: (s.readSector stream 0).diag }
  else { bytes := silence, diag := [.seekFailed] }

/-- The slot `FILL` writes (R195, R196). -/
def filledSlot (key : I32) (bytes : List Byte) : Slot where
  valid := true
  key := key
  buf := samplesOf bytes

/-- `FILL(key, t)` (R195): the slot at the cursor is overwritten whatever it held and whatever the read answered. -/
def State.fill (s : State) (key : I32) (t : Nat) : State :=
  let e := trackAt s.layout t
  let d := s.sectorRead e.stream (missAddr key e)
  ({ s with
      strm := { s.strm with
        cache := s.strm.cache.set s.strm.writeCursor.toNat (filledSlot key d.bytes)
        writeCursor := BitVec.ofNat 8 ((s.strm.writeCursor.toNat + 1) % Config.cacheSlots) }
      out := { s.out with reads := s.out.reads ++ [{ stream := e.stream, addr := missAddr key e }] } } : State).note d.diag

/-! ## Frames -/

/-- The words of a frame (R199): silence in the lead-in (R204), scrambled and conditioned for a Data track, conditioned for an Audio track. -/
def frameWords (s : State) (sector : I32) (t : Nat) (buf : List U16) : List U32 :=
  if sector.toInt < s.params.leadInSectors then Reset.frame
  else
    match (trackAt s.layout t).trackType with
    | .data => (buf.zipWith scrambleWord s.scrambleKey).map condition
    | .audio => buf.map condition

/-- Write the filling frame, `frames[1 - activeIdx]` (R42, R198). -/
def Streamer.setFilling (m : Streamer) (f : List U32) : Streamer :=
  if m.activeIdx = 0#1 then { m with frame1 := f } else { m with frame0 := f }

/-- The slot of a key: the one that holds it, or the one a miss fills (R198). -/
def State.ensureCached (s : State) (key : I32) (t : Nat) : Nat × State :=
  match lookup s.strm.cache key with
  | some j => (j, s)
  | none => (s.strm.writeCursor.toNat, s.fill key t)

/-- The sample words of a slot. -/
def Streamer.slotBuf (m : Streamer) (j : Nat) : List U16 := (m.cache.getD j Reset.slot).buf

/-- The end of PREPARE (R198): a remembered drain report goes straight to the clock wait. -/
def Streamer.afterPrepare (m : Streamer) : Streamer :=
  if m.drainPending then { m with drainPending := false, clockEdges := 0#2, phase := .waitClock }
  else { m with phase := .waitDrain }

/-- `PREPARE` (R198). -/
def State.prepare (s : State) : State :=
  let sector := s.sharedSector
  let t := s.trackSource sector
  let c := s.ensureCached (keyOf s.params sector) t
  let m : Streamer := { c.2.strm with preparedSector := sector }
  { c.2 with strm := (m.setFilling (frameWords s sector t (m.slotBuf c.1))).afterPrepare }

/-- `SWAP` (R201). -/
def Streamer.swap (m : Streamer) : Streamer :=
  { m with activeIdx := 1#1 - m.activeIdx, playingSector := m.preparedSector, clockEdges := 0#2, phase := .prepare }

/-- `RELOAD` of image `n` (R205). -/
def State.reload (s : State) (n : U32) : State :=
  let s := s.install n
  { s with
    strm := { s.strm with
      cache := s.strm.cache.map (fun c => { c with valid := false })
      frame0 := Reset.frame
      frame1 := Reset.frame
      writeCursor := 0#8
      activeIdx := 0#1
      drainPending := false
      clockEdges := 0#2
      loadedImage := n } }

/-! ## The operations -/

/-- `STRM_PREPARE` (R198): the guard is `strmPhase = Prepare`, not halted, and no image change seen. -/
def execStrmPrepare (s : State) : Host.Outcome State Fault Refusal :=
  if s.halted = false ∧ s.strm.phase = .prepare ∧ s.sharedImage = s.strm.loadedImage then .next s.prepare else .next s

/-- `STRM_SWAP` (R201): the guard is `strmPhase = WaitClock` and two clock edges. -/
def execStrmSwap (s : State) : Host.Outcome State Fault Refusal :=
  if s.halted = false ∧ s.strm.phase = .waitClock ∧ s.strm.clockEdges = 2#2 then .next { s with strm := s.strm.swap }
  else .next s

/-- `STRM_RELOAD` (R205): the guard is `strmPhase = Prepare`, not halted, and an image change seen by the reload check; the image installed is the one a
second read gives (R83). -/
def execStrmReload (s : State) : Host.Outcome State Fault Refusal :=
  if s.halted = false ∧ s.strm.phase = .prepare ∧ s.sharedImage ≠ s.strm.loadedImage then .next (s.reload s.reloadImage)
  else .next s

end Sys2Proof.Machine
end

