-- ==== Sys2Proof/Machine/Probe.lean ====
section
/-! DEFINITION. Sys2Proof/Machine/Probe.lean: the read-only probes (R101, class P): each evaluates a function of the CORE on the line's operands, in
every phase, changes no state, and gives its result as an output. -/

namespace Sys2Proof.Machine

/-- A probe with an operand of one type. -/
def probe {α : Type} (operand : Option α) (s : State) (f : α → ProbeResult) : Host.Outcome State Fault Refusal :=
  match operand with
  | some a => .next (s.answer (f a))
  | none => .refused .badOperands

/-- `P_LOAD` (R132): the line's operands are the description's entries, and whether it could be opened is a draw. -/
def execPLoad (s : State) : Host.Outcome State Fault Refusal :=
  probe (trackOperands s.operands) s (fun es => .layout (load s.params { openFailed := !s.draws.descriptionOpens, entries := es }))

/-- `P_TRACK_OF s` (R136). -/
def execPTrackOf (s : State) : Host.Outcome State Fault Refusal :=
  probe (i32Operand s.operands) s (fun x => .track (trackOf s.params s.layout x.toInt))

/-- `P_IS_DATA t` (R137): refused for t outside 1..trackCount + 1. -/
def execPIsData (s : State) : Host.Outcome State Fault Refusal :=
  match intOperand s.operands with
  | some t =>
    if 1 ≤ t ∧ t ≤ leadOutNumber s.layout then .next (s.answer (.bool (isData s.layout t.toNat)))
    else .refused .trackOutOfRange
  | none => .refused .badOperands

/-- `P_MSF s` (R138). -/
def execPMsf (s : State) : Host.Outcome State Fault Refusal :=
  probe (i32Operand s.operands) s (fun x => .msf (msf x.toInt))

/-- `P_BCD v` (R139). -/
def execPBcd (s : State) : Host.Outcome State Fault Refusal :=
  probe (i32Operand s.operands) s (fun x => .byte (toBcd x.toInt))

/-- `P_SUBQ s` (R150): refused for a lead-in point ≤ 0 (R151). -/
def execPSubq (s : State) : Host.Outcome State Fault Refusal :=
  match i32Operand s.operands with
  | some x =>
    match subq s.params s.layout s.inputs.controlMode x.toInt with
    | some r => .next (s.answer (.block r))
    | none => .refused .noSuchPoint
  | none => .refused .badOperands

/-- `P_CRC b0 … b9` (R167). -/
def execPCrc (s : State) : Host.Outcome State Fault Refusal :=
  probe (byteOperands 10 s.operands) s (fun bs => .crc (crc s.params bs))

/-- `P_PACK b0 … b11` (R170). -/
def execPPack (s : State) : Host.Outcome State Fault Refusal :=
  probe (byteOperands 12 s.operands) s (fun bs => .lane (pack bs))

/-- `P_KEYGEN` (R190). -/
def execPKeygen (s : State) : Host.Outcome State Fault Refusal := .next (s.answer (.key (keygen s.params)))

/-- `P_SCRAMBLE w i` (R203): refused for i outside 0..1175. -/
def execPScramble (s : State) : Host.Outcome State Fault Refusal :=
  match sampleAndIndex s.operands with
  | some (w, i) =>
    if 0 ≤ i ∧ i < Config.sectorWords then .next (s.answer (.sample (scramble s.scrambleKey w i.toNat)))
    else .refused .keyIndexOutOfRange
  | none => .refused .badOperands

/-- `P_CONDITION w` (R202). -/
def execPCondition (s : State) : Host.Outcome State Fault Refusal :=
  probe (u16Operand s.operands) s (fun w => .laneWord (condition w))

/-- `P_SECTOR_OF_TRACK t` (R233). -/
def execPSectorOfTrack (s : State) : Host.Outcome State Fault Refusal :=
  probe (i32Operand s.operands) s (fun t => .i32 (sectorOfTrack t))

/-- `P_SECTORS_PER_TRACK t` (R234). -/
def execPSectorsPerTrack (s : State) : Host.Outcome State Fault Refusal :=
  probe (i32Operand s.operands) s (fun t => .i32 (sectorsPerTrack t))

/-- `P_LOOKUP key` (R192). -/
def execPLookup (s : State) : Host.Outcome State Fault Refusal :=
  probe (i32Operand s.operands) s (fun k => .slot (lookup s.strm.cache k))

end Sys2Proof.Machine
end

