-- ==== Sys2Proof/Machine/Dispatch.lean ====
section
/-! DEFINITION. Sys2Proof/Machine/Dispatch.lean: one arm per operation, each one call of its meaning. -/

namespace Sys2Proof.Machine

def exec (i : Instr) (s : State) : Host.Outcome State Fault Refusal :=
  match i with
  | .poweron => Sys2Proof.Machine.execPoweron s
  | .envCmd b => Sys2Proof.Machine.execEnvCmd b s
  | .envOverride v => Sys2Proof.Machine.execEnvOverride v s
  | .envCtlmode m => Sys2Proof.Machine.execEnvCtlmode m s
  | .envImage n => Sys2Proof.Machine.execEnvImage n s
  | .envDrained => Sys2Proof.Machine.execEnvDrained s
  | .envSubqTaken => Sys2Proof.Machine.execEnvSubqTaken s
  | .envWclk v => Sys2Proof.Machine.execEnvWclk v s
  | .ctrlIter => Sys2Proof.Machine.execCtrlIter s
  | .ctrlLatch => Sys2Proof.Machine.execCtrlLatch s
  | .ctrlChain => Sys2Proof.Machine.execCtrlChain s
  | .ctrlSoct => Sys2Proof.Machine.execCtrlSoct s
  | .ctrlSled => Sys2Proof.Machine.execCtrlSled s
  | .ctrlSeekdone => Sys2Proof.Machine.execCtrlSeekdone s
  | .ctrlPlay => Sys2Proof.Machine.execCtrlPlay s
  | .ctrlAuthchk => Sys2Proof.Machine.execCtrlAuthchk s
  | .ctrlAuthstep => Sys2Proof.Machine.execCtrlAuthstep s
  | .strmPrepare => Sys2Proof.Machine.execStrmPrepare s
  | .strmSwap => Sys2Proof.Machine.execStrmSwap s
  | .strmReload => Sys2Proof.Machine.execStrmReload s
  | .pLoad => Sys2Proof.Machine.execPLoad s
  | .pTrackOf => Sys2Proof.Machine.execPTrackOf s
  | .pIsData => Sys2Proof.Machine.execPIsData s
  | .pMsf => Sys2Proof.Machine.execPMsf s
  | .pBcd => Sys2Proof.Machine.execPBcd s
  | .pSubq => Sys2Proof.Machine.execPSubq s
  | .pCrc => Sys2Proof.Machine.execPCrc s
  | .pPack => Sys2Proof.Machine.execPPack s
  | .pKeygen => Sys2Proof.Machine.execPKeygen s
  | .pScramble => Sys2Proof.Machine.execPScramble s
  | .pCondition => Sys2Proof.Machine.execPCondition s
  | .pSectorOfTrack => Sys2Proof.Machine.execPSectorOfTrack s
  | .pSectorsPerTrack => Sys2Proof.Machine.execPSectorsPerTrack s
  | .pLookup => Sys2Proof.Machine.execPLookup s
  | .xSled d => Sys2Proof.Machine.execXSled d s
  | .xSeek dir => Sys2Proof.Machine.execXSeek dir s
  | .xMode m => Sys2Proof.Machine.execXMode m s
  | .xClicks n => Sys2Proof.Machine.execXClicks n s
  | .xSoct => Sys2Proof.Machine.execXSoct s
  | .xSens q v => Sys2Proof.Machine.execXSens q v s
  | .cmd8 b => Sys2Proof.Machine.execCmd8 b s

end Sys2Proof.Machine
end

