-- ==== Sys2Proof/Machine/Step.lean ====
section
/-! DEFINITION. Sys2Proof/Machine/Step.lean: one step: the next trace line is fetched and its operation executed. -/

namespace Sys2Proof.Machine

/-- One step. An ended trace gives no event, and nothing happens. -/
def step (s : State) : Host.Outcome State Fault Refusal :=
  match fetch s with
  | .idle => .next s
  | .refused r => .refused r
  | .run i t => exec i t

/-- `s` with the word of a table row as its next trace line. A width that no format has places no line. -/
def State.withFetchWord (s : State) (nbits w : Nat) : State :=
  match wordOfBits nbits w with
  | some e => { s with trace := plainLine s.now e :: s.trace }
  | none => s

end Sys2Proof.Machine
end

