-- ==== Sys2Proof/Machine/Trace.lean ====
section
/-! DEFINITION. Sys2Proof/Machine/Trace.lean: the trace lines a mnemonic and its operands spell (R116), the pseudo-operations (R117), and the
well-timed traces of R311. A trace is State's own field `trace`; the text form of a line is `@<t> <MNEMONIC> <operands>`, here its tokens. -/

namespace Sys2Proof.Machine

/-- The operation codes by mnemonic (R101). -/
def opcodes : List (String × Byte) :=
  [("POWERON", 0x00#8), ("ENV_CMD", 0x01#8), ("ENV_OVERRIDE", 0x02#8), ("ENV_CTLMODE", 0x03#8), ("ENV_IMAGE", 0x04#8),
   ("ENV_DRAINED", 0x05#8), ("ENV_SUBQ_TAKEN", 0x06#8), ("ENV_WCLK", 0x07#8)] ++
  [("CTRL_ITER", 0x10#8), ("CTRL_LATCH", 0x11#8), ("CTRL_CHAIN", 0x12#8), ("CTRL_SOCT", 0x13#8), ("CTRL_SLED", 0x14#8),
   ("CTRL_SEEKDONE", 0x15#8), ("CTRL_PLAY", 0x16#8), ("CTRL_AUTHCHK", 0x17#8), ("CTRL_AUTHSTEP", 0x18#8)] ++
  [("STRM_PREPARE", 0x20#8), ("STRM_SWAP", 0x21#8), ("STRM_RELOAD", 0x22#8)] ++
  [("P_LOAD", 0x30#8), ("P_TRACK_OF", 0x31#8), ("P_IS_DATA", 0x32#8), ("P_MSF", 0x33#8), ("P_BCD", 0x34#8), ("P_SUBQ", 0x35#8),
   ("P_CRC", 0x36#8), ("P_PACK", 0x37#8), ("P_KEYGEN", 0x38#8), ("P_SCRAMBLE", 0x39#8), ("P_CONDITION", 0x3A#8),
   ("P_SECTOR_OF_TRACK", 0x3B#8), ("P_SECTORS_PER_TRACK", 0x3C#8), ("P_LOOKUP", 0x3D#8)] ++
  [("X_SLED", 0x40#8), ("X_SEEK", 0x41#8), ("X_MODE", 0x42#8), ("X_CLICKS", 0x43#8), ("X_SOCT", 0x44#8), ("X_SENS", 0x45#8)]

/-- A line at time `t` for a word and wide operands, with plain draws. -/
def lineAt (t : Time) (w : EventWord) (wide : List Int) : TraceLine where
  time := t
  word := w
  operands := wide
  draws := Draws.plain

/-- Lines for operations without wide operands, all at one time stamp (R117). -/
def linesAt (t : Time) (is : List Instr) : List TraceLine := is.map (fun i => lineAt t (encode i) [])

/-- `CMD b1 … bk` (R117): `ENV_CMD b1`, …, `ENV_CMD bk`, then one `CTRL_ITER`. -/
def pseudoCmd (bytes : List Byte) : List Instr := bytes.map .envCmd ++ [.ctrlIter]

/-- `ADVANCE` (R117). -/
def pseudoAdvance : List Instr := [.envSubqTaken, .ctrlIter]

/-- `FRAME` (R117). -/
def pseudoFrame : List Instr := [.strmPrepare, .envDrained, .envWclk true, .envWclk false, .strmSwap]

/-- `SLEDSTEP` (R117). -/
def pseudoSledstep : List Instr := [.ctrlIter]

/-- The lines of `@t MNEMONIC operands` (R116, R117): the first operand is the 8-bit `arg`, the wide operands follow it, and the line's event
word is `{op, arg}`. A line with a mnemonic of neither rule, or with no 8-bit first operand, spells nothing. THE MODEL'S CHOICE
(notes/assumptions/6.md): operands after `ADVANCE`, `FRAME` and `SLEDSTEP` are ignored, and `CMD` with no byte is the bare `CTRL_ITER`. -/
def traceLines (t : Time) (mnemonic : String) (operands : List Int) : Option (List TraceLine) :=
  if mnemonic = "CMD" then (byteOperands operands.length operands).map (fun bs => linesAt t (pseudoCmd bs))
  else if mnemonic = "ADVANCE" then some (linesAt t pseudoAdvance)
  else if mnemonic = "FRAME" then some (linesAt t pseudoFrame)
  else if mnemonic = "SLEDSTEP" then some (linesAt t pseudoSledstep)
  else
    match opcodes.lookup mnemonic, operands with
    | some op, arg :: wide =>
      if 0 ≤ arg ∧ arg < 256 then some [lineAt t (evWord op (BitVec.ofInt 8 arg)) wide] else none
    | some _, [] => none
    | none, _ => none

/-! ## Well-timed traces -/

/-- The occurrences of operation `i` in the run of the next `n` trace lines: the time of each, and the sector period of the mode in force at it. A run ends
where a step is refused. -/
def occurrences (i : Instr) : Nat → State → List (Time × Rat)
  | 0, _ => []
  | n + 1, s =>
    match fetch s with
    | .idle => []
    | .refused _ => []
    | .run j t =>
      match exec j t with
      | .next u => if j = i then (t.now, t.sectorPeriodUs) :: occurrences i n u else occurrences i n u
      | .fault _ => []
      | .refused _ => []

/-- Each occurrence's time less the periods of the occurrences before it, `due` in all: the time the first one would have had. -/
def startTimes (due : Rat) : List (Time × Rat) → List Rat
  | [] => []
  | (t, period) :: rest => ((t.toNat : Rat) - due) :: startTimes (due + period) rest

/-- The occurrences are one sector period apart: one exact start time gives every time stamp, which is a whole number of microseconds
(notes/assumptions/21.md). -/
def onSchedule (os : List (Time × Rat)) : Bool :=
  let starts := startTimes 0 os
  starts.all (fun a => starts.all (fun b => a - b < 1))

/-- A well-timed trace (R311): in the run of the trace from `s`, successive `ENV_DRAINED`, and successive `ENV_SUBQ_TAKEN`, are
`SECTOR_PERIOD_US(mode)` apart. The CORE's rules hold for any timing. -/
def State.wellTimed (s : State) : Bool :=
  onSchedule (occurrences .envDrained s.trace.length s) && onSchedule (occurrences .envSubqTaken s.trace.length s)

end Sys2Proof.Machine
end

