-- ==== Sys2Proof/Safety.lean ====
section
/-! DEFINITION. Sys2Proof/Safety.lean: what holds of every state a run reaches: the ranges and relations that 10_state.md and the operation files
give the elements. A safe run is one whose states meet `State.Inv`; no rule of the spec leaves it (R333). -/

namespace Sys2Proof.Machine

/-- The class column of R101; `CMD8` stands outside that table (R103). -/
inductive OpClass where
  | environment | ctrl | strm | probe | effect | commandByte
deriving DecidableEq, Repr

/-- The class of an operation (R101). -/
def opClass : Instr → OpClass
  | .poweron | .envCmd _ | .envOverride _ | .envCtlmode _ | .envImage _ | .envDrained | .envSubqTaken | .envWclk _ => .environment
  | .ctrlIter | .ctrlLatch | .ctrlChain | .ctrlSoct | .ctrlSled | .ctrlSeekdone | .ctrlPlay | .ctrlAuthchk | .ctrlAuthstep => .ctrl
  | .strmPrepare | .strmSwap | .strmReload => .strm
  | .pLoad | .pTrackOf | .pIsData | .pMsf | .pBcd | .pSubq | .pCrc | .pPack | .pKeygen | .pScramble | .pCondition
  | .pSectorOfTrack | .pSectorsPerTrack | .pLookup => .probe
  | .xSled _ | .xSeek _ | .xMode _ | .xClicks _ | .xSoct | .xSens _ _ => .effect
  | .cmd8 _ => .commandByte

/-- One operation after another: the second runs on the state the first leaves. -/
def thenExec (o : Host.Outcome State Fault Refusal) (i : Instr) : Host.Outcome State Fault Refusal :=
  match o with
  | .next t => exec i t
  | .fault r => .fault r
  | .refused r => .refused r

/-- R235, the values CLAMP leaves of a branch body's exact ones: a negative sector or track resets all three to 0; otherwise sector and track are limited
at the top, and `sectorForTrackUpdate` is not: it is stored as it is wherever an `i32` can hold it (notes/assumptions/3.md). -/
def ClampedPosition (p : Params) (sector track update : Int) (pos : Position) : Prop :=
  ((sector < 0 ∨ track < 0) → pos.sector = 0#32 ∧ pos.track = 0#32 ∧ pos.sectorForTrackUpdate = 0#32) ∧
  (0 ≤ sector → 0 ≤ track → pos.sector.toInt = min sector p.sectorMax ∧ pos.track.toInt = min track p.trackMax ∧
    (-2 ^ 31 ≤ update → update < 2 ^ 31 → pos.sectorForTrackUpdate.toInt = update))

/-- R141, of an installed layout: its size, the order of its indices, its lead-out, and `hasData`. -/
structure LayoutOk (p : Params) (L : Layout) : Prop where
  count   : 1 ≤ L.trackCount.toNat ∧ L.trackCount.toNat ≤ p.maxTracks
  entries : L.tracks.length = L.trackCount.toNat + 1
  order   : entriesConsistent (L.tracks.take L.trackCount.toNat) = true
  leadOut : trackAt L (L.trackCount.toNat + 1) = leadOutAfter (trackAt L L.trackCount.toNat)
  hasData : L.hasData = (L.tracks.take L.trackCount.toNat).any (fun e => e.trackType == .data)

/-- The ranges of R21, R22 and R24. -/
structure PositionOk (p : Params) (pos : Position) : Prop where
  sector  : 0 ≤ pos.sector.toInt ∧ pos.sector.toInt ≤ p.sectorMax
  track   : 0 ≤ pos.track.toInt ∧ pos.track.toInt ≤ p.trackMax
  logical : 1 ≤ pos.currentLogicalTrack.toNat

/-- R40, R41 and R206(2): 50 slots of one sector each, the cursor names one, and at most one valid slot holds any key. -/
structure CacheOk (m : Streamer) : Prop where
  slots  : m.cache.length = 50
  bufs   : ∀ c ∈ m.cache, c.buf.length = 1176
  cursor : m.writeCursor.toNat < 50
  unique : m.cache.Pairwise (fun a b => ¬ (a.valid = true ∧ b.valid = true ∧ a.key = b.key))

/-- R42, R44, R55, R200: frames of 1176 words, at most two clock edges and those only while waiting to swap, and no remembered drain report while
STRM waits for one. -/
structure HandshakeOk (m : Streamer) : Prop where
  frames : m.frame0.length = 1176 ∧ m.frame1.length = 1176
  edges  : m.clockEdges.toNat ≤ 2
  idle   : m.phase ≠ .waitClock → m.clockEdges = 0#2
  drain  : m.phase = .waitDrain → m.drainPending = false

/-- R25, R38, R52, R53, R85, R331: the phases agree with one another, with the ready flags and with the halted flag. -/
structure PhaseOk (s : State) : Prop where
  auth    : s.ctrlPhase = .auth ↔ s.auth.phase ≠ .idle
  halt    : s.halted = true → s.ctrlPhase = .startup ∧ s.strm.phase = .startup
  cause   : s.haltCause = .mountFailure ↔ s.halted = true
  running : s.poweredOn = true → s.halted = false →
    s.ctrlPhase ≠ .startup ∧ s.strm.phase ≠ .startup ∧ s.ctrlReady = true ∧ s.strmReady = true
  off     : s.poweredOn = false → s.halted = false

/-- R88, R340: every time stamp is a time already passed. -/
structure TimesOk (s : State) : Prop where
  motion  : s.motion.lastMotionTime ≤ s.now
  seek    : s.motion.autoseekStart ≤ s.now
  check   : s.auth.lastCheck ≤ s.now
  phase   : s.auth.phaseStart ≤ s.now

/-- The invariant of the machine. -/
structure State.Inv (s : State) : Prop where
  params   : s.params.Ok
  position : PositionOk s.params s.pos
  old      : 0 ≤ s.old.sector.toInt ∧ s.old.sector.toInt ≤ s.params.sectorMax
  layout   : s.poweredOn = true → s.halted = false → LayoutOk s.params s.layout
  cache    : CacheOk s.strm
  frames   : HandshakeOk s.strm
  key      : s.scrambleKey.length = 1176
  phases   : PhaseOk s
  times    : TimesOk s
  counter  : s.auth.counter.toNat ≤ Config.authFireThreshold
  clicks   : s.motion.tracksPerClick ≠ 0#32
  storage  : Storage.wf s.storage = true

end Sys2Proof.Machine
end

