-- ==== Sys2Proof/Certificates/Slice0/Obligations.lean ====
section
/-! DEFINITION. Sys2Proof/Certificates/Slice0/Obligations.lean: the statements. Where a rule writes `x <- v`, the statement gives the element's value after
the operation and says, by an equation `t = { s with … }`, that everything not named there is as before. `s.beginIteration` is `s` with the model's own
record of the shared values a stale read may still see brought up to date (notes/assumptions/8.md); it changes no element of 10_state.md. -/

open Sys2Proof Sys2Proof.Machine

/-! ## Reset, startup and the fatal halt -/

/-- The reset state is what POWERON leaves of a CORE with the simulation parameters (notes/assumptions/1.md and 5.md name what of it is the
model's choice). -/
def Obligations.ResetIsWhatPoweronLeaves : Prop :=
  exec .poweron (State.powerOff Config.simulation) = .next State.reset

/-- R360, R362: POWERON on a mountable store sets every element to its reset value, generates the key, sets SENS, installs image 0 and passes the
barrier. THE MODEL'S CHOICE (notes/assumptions/14.md and 15.md), in the last two lines: the parameters, the storage, the trace, the time and the outputs are
no elements of 10_state.md and survive a POWERON; the diagnostic log may grow by the load's condition. -/
def Obligations.PoweronSetsEveryElement : Prop :=
  ∀ s : State, s.draws.mountOk = true → ∃ t, exec .poweron s = .next t ∧
    t.pos = { sector := 0#32, track := 0#32, sectorForTrackUpdate := 0#32, currentLogicalTrack := 1#8 } ∧
    t.ctrlPhase = .top ∧
    t.motion = { sledDirection := .stop, autoseekActive := false, autoseekTarget := 0#32, autoseekDirection := .forward,
                 autoseekStart := 0#64, mode := .x1, lastMotionTime := 0#64, clickAccum := 0#32,
                 tracksPerClick := s.params.tracksPerClickReset, soctPending := false, soctEnabled := false } ∧
    t.subq = { consumed := true, lane := { w0 := 0#32, w1 := 0#32, w2 := 0#32 } } ∧
    t.cmd = { latch := 0#24, sens := s.params.sensReset, currentSens := 0#4, cmdQueue := [] } ∧
    t.auth = { phase := .idle, phaseStart := 0#64, counter := 0#32, lastCheck := 0#64, line := true } ∧
    t.strm.phase = .prepare ∧ t.strm.cache.length = 50 ∧ (∀ c ∈ t.strm.cache, c.valid = false) ∧ t.strm.writeCursor = 0#8 ∧
    t.strm.frame0 = List.replicate 1176 0#32 ∧ t.strm.frame1 = List.replicate 1176 0#32 ∧ t.strm.activeIdx = 0#1 ∧
    t.strm.playingSector = 0#32 ∧ t.strm.preparedSector = 0#32 ∧ t.strm.clockEdges = 0#2 ∧ t.strm.drainPending = false ∧
    t.strm.wclkLevel = false ∧ t.strm.loadedImage = 0#32 ∧
    t.scrambleKey = keygen s.params ∧ t.layout = installed s.params (imageAt s.params 0#32) ∧
    t.inputs = { imageIndex := 0#32, controlMode := .normal, overrideFlag := false } ∧
    t.halted = false ∧ t.haltCause = .none ∧ t.ctrlReady = true ∧ t.strmReady = true ∧
    t.sensOut = sensBit s.params.sensReset 0#4 ∧ t.limitOut = false ∧
    t.params = s.params ∧ t.storage = s.storage ∧ t.trace = s.trace ∧ t.now = s.now ∧
    t.out.dataOut = s.out.dataOut ∧ t.out.subqOut = s.out.subqOut ∧ t.out.probeOut = s.out.probeOut ∧ t.out.reads = s.out.reads

/-- R331, R361: a failed mount halts the CORE: the flag and its cause are recorded, neither agent leaves `Startup`, the barrier is not passed, and the
outputs hold their reset values. -/
def Obligations.MountFailureHalts : Prop :=
  ∀ s : State, s.draws.mountOk = false → ∃ t, exec .poweron s = .next t ∧
    t.halted = true ∧ t.haltCause = .mountFailure ∧ t.haltCause.code = 0x01#8 ∧
    t.ctrlPhase = .startup ∧ t.strm.phase = .startup ∧ t.ctrlReady = false ∧ t.strmReady = false ∧
    t.auth.line = true ∧ t.sensOut = sensBit s.params.sensReset 0#4 ∧ t.limitOut = false ∧
    t.strm.frame0 = List.replicate 1176 0#32 ∧ t.strm.frame1 = List.replicate 1176 0#32

/-- R331: once halted, no CTRL or STRM event and no injected effect changes anything. (X_SEEK needs its operand, R116; X_CLICKS takes 1..255, R101.) -/
def Obligations.HaltedAgentsChangeNothing : Prop :=
  ∀ (i : Instr) (s : State), s.halted = true → (opClass i = .ctrl ∨ opClass i = .strm ∨ opClass i = .effect) →
    i.wellFormed = true → (∀ dir, i = .xSeek dir → ∃ x, i32Operand s.operands = some x) → exec i s = .next s

/-- R52, R331: no step but POWERON's changes `halted` or `haltCause`. -/
def Obligations.OnlyPoweronTouchesHalt : Prop :=
  ∀ s t : State, step s = .next t →
    (t.halted = s.halted ∧ t.haltCause = s.haltCause) ∨ ∃ l rest, s.trace = l :: rest ∧ decode l.word = .op .poweron

/-- R375(1): before the first POWERON every other event is refused, and POWERON itself is executed. -/
def Obligations.EventsBeforePoweronRefused : Prop :=
  ∀ (s : State) (l : TraceLine) (rest : List TraceLine) (i : Instr), s.poweredOn = false → s.trace = l :: rest → s.now ≤ l.time →
    decode l.word = .op i →
    (i ≠ .poweron → step s = .refused .beforePowerOn) ∧
    (i = .poweron → step s = exec .poweron (s.takeLine l rest))

/-! ## Words, fetch and step -/

/-- A step takes the next trace line and runs the operation its word spells, at the line's time, with its operands and draws (R116). -/
def Obligations.StepRunsTheDecodedOperation : Prop :=
  ∀ (s : State) (l : TraceLine) (rest : List TraceLine) (i : Instr), s.trace = l :: rest → s.now ≤ l.time → decode l.word = .op i →
    (s.poweredOn = true ∨ i = .poweron) →
    step s = exec i { s with trace := rest, now := l.time, operands := l.operands, draws := l.draws }

/-- R102: a reserved word is refused under the decoder's verdict, and makes no step. -/
def Obligations.ReservedWordRefused : Prop :=
  ∀ (s : State) (l : TraceLine) (rest : List TraceLine) (op arg : Byte), s.trace = l :: rest → s.now ≤ l.time →
    decode l.word = .reserved op arg → step s = .refused (.reserved op arg)

/-- Every well-formed operation is read back from its word. -/
def Obligations.DecodeOfEncode : Prop :=
  ∀ i : Instr, i.wellFormed = true → decode (encode i) = .op i

/-- R118: the decoder is total: a word spells the one well-formed operation whose word it is, or it is an event word with the verdict `reserved` of its two
fields. -/
def Obligations.EncodeOfDecode : Prop :=
  ∀ e : EventWord,
    (∃ i : Instr, i.wellFormed = true ∧ decode e = .op i ∧ encode i = e) ∨
    (∃ w : U16, e = .ev16 w ∧ decode e = .reserved (w.extractLsb' 8 8) (w.extractLsb' 0 8) ∧
      ∀ i : Instr, i.wellFormed = true → encode i ≠ e)

/-- Words written out from the rows of R101 and from R103. -/
def Obligations.TableWordsDecode : Prop :=
  decode (.ev16 0x0000#16) = .op .poweron ∧ decode (.ev16 0x0133#16) = .op (.envCmd 0x33#8) ∧
  decode (.ev16 0x0302#16) = .op (.envCtlmode .levelMeter) ∧ decode (.ev16 0x1000#16) = .op .ctrlIter ∧
  decode (.ev16 0x1600#16) = .op .ctrlPlay ∧ decode (.ev16 0x1800#16) = .op .ctrlAuthstep ∧
  decode (.ev16 0x2100#16) = .op .strmSwap ∧ decode (.ev16 0x3B00#16) = .op .pSectorOfTrack ∧
  decode (.ev16 0x4002#16) = .op (.xSled .reverse) ∧ decode (.ev16 0x4531#16) = .op (.xSens 3#4 true) ∧
  decode (.cmd8 0x05#8) = .op (.cmd8 0x05#8) ∧
  decode (.ev16 0x4003#16) = .reserved 0x40#8 0x03#8 ∧ decode (.ev16 0x4300#16) = .reserved 0x43#8 0x00#8 ∧
  decode (.ev16 0x4502#16) = .reserved 0x45#8 0x02#8 ∧ decode (.ev16 0x0800#16) = .reserved 0x08#8 0x00#8

/-! ## Environment inputs and the transport -/

/-- R244, R293, R171, R363: an environment input sets its element and changes no other. THE MODEL'S CHOICE (notes/assumptions/8.md), in the clause on `old`:
after an `ENV_IMAGE` that changes the selection, the selection before it is the value a stale read may see. -/
def Obligations.InputEventsSetTheirElement : Prop :=
  ∀ (s : State) (b n : Byte) (v : Bool) (m : ControlMode),
    exec (.envCmd b) s = .next { s with cmd := { s.cmd with cmdQueue := s.cmd.cmdQueue ++ [b] } } ∧
    exec (.envOverride v) s = .next { s with inputs := { s.inputs with overrideFlag := v } } ∧
    exec (.envCtlmode m) s = .next { s with inputs := { s.inputs with controlMode := m } } ∧
    exec (.envImage n) s = .next { s with
      inputs := { s.inputs with imageIndex := n.setWidth 32 }
      old := { s.old with
        imageIndex := if n.setWidth 32 = s.inputs.imageIndex then s.old.imageIndex else s.inputs.imageIndex } }

/-- R312: the active frame goes out; STRM in `WaitDrain` starts the clock wait with no edge counted, otherwise the report is remembered. -/
def Obligations.DrainReport : Prop :=
  ∀ s : State, ∃ t, exec .envDrained s = .next t ∧
    t.out = { s.out with dataOut := s.out.dataOut ++ [if s.strm.activeIdx = 0#1 then s.strm.frame0 else s.strm.frame1] } ∧
    (s.strm.phase = .waitDrain → t.strm = { s.strm with clockEdges := 0#2, phase := .waitClock }) ∧
    (s.strm.phase ≠ .waitDrain → t.strm = { s.strm with drainPending := true }) ∧
    t = { s with out := t.out, strm := t.strm }

/-- R313: the transport takes the three lane words, in order, and the cycle counts as consumed. THE MODEL'S CHOICE (notes/assumptions/15.md), in the second
clause: the multiplex (R315) pairs the k-th data frame with the k-th group taken. -/
def Obligations.SubchannelTaken : Prop :=
  ∀ s : State, ∃ t, exec .envSubqTaken s = .next t ∧
    t = { s with out := { s.out with subqOut := s.out.subqOut ++ [s.subq.lane] }, subq := { s.subq with consumed := true } } ∧
    ∀ (k : Nat) (frame : List U32) (group : Lane),
      t.out.multiplex[k]? = some (frame, group) ↔ t.out.dataOut[k]? = some frame ∧ t.out.subqOut[k]? = some group

/-- R314: a word-clock transition sets the level, and is counted only while STRM waits to swap and fewer than two have been; the current level again
changes nothing. -/
def Obligations.WordClockTransition : Prop :=
  ∀ (s : State) (v : Bool),
    (v = s.strm.wclkLevel → exec (.envWclk v) s = .next s) ∧
    (v ≠ s.strm.wclkLevel → ∃ t, exec (.envWclk v) s = .next t ∧ t = { s with strm := t.strm } ∧
      t.strm = { s.strm with wclkLevel := v, clockEdges := t.strm.clockEdges } ∧
      (s.strm.phase = .waitClock → s.strm.clockEdges.toNat < 2 → t.strm.clockEdges.toNat = s.strm.clockEdges.toNat + 1) ∧
      (s.strm.phase ≠ .waitClock ∨ 2 ≤ s.strm.clockEdges.toNat → t.strm.clockEdges = s.strm.clockEdges))

/-! ## Motion effects -/

/-- R250 to R254, as the `X_` operations apply them when not halted (R249), in every `ctrlPhase`. -/
def Obligations.InjectedEffects : Prop :=
  ∀ (s : State) (d : SledDir) (dir : SeekDir) (target : I32) (m : SpeedMode) (n : Byte), s.halted = false →
    exec (.xSled d) s = .next { s with motion := { s.motion with sledDirection := d } } ∧
    (i32Operand s.operands = some target → exec (.xSeek dir) s = .next { s with
      motion := { s.motion with
        autoseekActive := true, autoseekTarget := target, autoseekDirection := dir, autoseekStart := s.now }
      cmd := { s.cmd with sens := setSensBit s.cmd.sens s.params.sensXbusy true } }) ∧
    exec (.xMode m) s = .next { s with motion := { s.motion with mode := m } } ∧
    (n ≠ 0#8 → exec (.xClicks n) s = .next { s with motion := { s.motion with tracksPerClick := n.setWidth 32 } }) ∧
    exec .xSoct s = .next { s with motion := { s.motion with soctPending := true, soctEnabled := true } }

/-- R255: `SensWrite(q, v)` sets flag q to v and leaves the other fifteen flags, and everything else, as they were; and it is the only way the focus flag changes:
no operation but POWERON and `X_SENS` changes `sens[SENS_FOK]` where no row of `decodeLatch` writes it. Rests on the three flags having distinct codes (R104). -/
def Obligations.SensWriteOnlyChangesFocus : Prop :=
  (∀ (s : State) (q : BitVec 4) (v : Bool), s.halted = false → ∃ t, exec (.xSens q v) s = .next t ∧
    t = { s with cmd := { s.cmd with sens := t.cmd.sens } } ∧
    ∀ k : BitVec 4, t.cmd.sens.getLsbD k.toNat = if k = q then v else s.cmd.sens.getLsbD k.toNat) ∧
  (∀ (i : Instr) (s t : State), s.params.Ok → exec i s = .next t → i ≠ .poweron → (∀ q v, i ≠ .xSens q v) →
    (∀ r ∈ s.params.decodeLatch, ∀ v, .sensWrite s.params.sensFok v ∉ r.effects) →
    sensBit t.cmd.sens s.params.sensFok = sensBit s.cmd.sens s.params.sensFok)

/-! ## Command latch -/

/-- R245, R246, R54: with the lock free at every attempt (no attempt fails, or one after the last byte would), a latch service takes every queued byte in
arrival order: each is shifted into the latch, and the last one's top nibble selects the SENS flag that the output drives. Only the command group and,
through effects, the motion group change. -/
def Obligations.LatchServiceTakesEveryByte : Prop :=
  ∀ s : State, s.halted = false → s.ctrlPhase = .top → (∀ k, s.draws.lockContendedAt = some k → s.cmd.cmdQueue.length ≤ k) →
    ∃ t, exec .ctrlLatch s = .next t ∧
    t.cmd.cmdQueue = [] ∧
    t.cmd.latch = s.cmd.cmdQueue.foldl (fun (l : BitVec 24) (b : Byte) => (l >>> 8) ||| (b.setWidth 24 <<< 16)) s.cmd.latch ∧
    (∀ b, s.cmd.cmdQueue.getLast? = some b → t.cmd.currentSens = b.extractLsb' 4 4 ∧
      t.sensOut = t.cmd.sens.getLsbD (b.extractLsb' 4 4).toNat) ∧
    (s.cmd.cmdQueue = [] → t = s) ∧
    t = { s with cmd := t.cmd, motion := t.motion }

/-- R84, R245: when attempt k meets a contended lock, the k bytes before it have been taken and the rest of the service is skipped; the byte met stays
queued, or is dropped when `LOCK_DROP_ON_CONTENTION`. -/
def Obligations.ContendedLockSkipsTheRest : Prop :=
  ∀ (s : State) (k : Nat), s.halted = false → s.ctrlPhase = .top → s.draws.lockContendedAt = some k → k < s.cmd.cmdQueue.length →
    ∃ t, exec .ctrlLatch s = .next t ∧
    t.cmd.cmdQueue = (if s.params.lockDropOnContention then s.cmd.cmdQueue.drop (k + 1) else s.cmd.cmdQueue.drop k) ∧
    t.cmd.latch = (s.cmd.cmdQueue.take k).foldl (fun (l : BitVec 24) (b : Byte) => (l >>> 8) ||| (b.setWidth 24 <<< 16)) s.cmd.latch ∧
    (k = 0 → t.cmd.currentSens = s.cmd.currentSens ∧ t.cmd.sens = s.cmd.sens ∧ t.motion = s.motion) ∧
    t = { s with cmd := t.cmd, motion := t.motion }

/-- R249: an effect that `decodeLatch` gives acts on the state the byte's latch shift leaves exactly as its `X_` operation does. `u` is that state. -/
def Obligations.LatchEffectsActAsInjected : Prop :=
  ∀ (s u : State) (b : Byte), s.halted = false → s.ctrlPhase = .top → s.draws.lockContendedAt = none → s.cmd.cmdQueue = [b] →
    u = { s with cmd := { s.cmd with
            latch := (s.cmd.latch >>> 8) ||| (b.setWidth 24 <<< 16), currentSens := b.extractLsb' 4 4, cmdQueue := [] } } →
    (decodeLatch s.params.decodeLatch u.cmd.latch u.view = [] → exec .ctrlLatch s = .next u) ∧
    (∀ d, decodeLatch s.params.decodeLatch u.cmd.latch u.view = [.sledSet d] → exec .ctrlLatch s = exec (.xSled d) u) ∧
    (∀ m, decodeLatch s.params.decodeLatch u.cmd.latch u.view = [.modeSet m] → exec .ctrlLatch s = exec (.xMode m) u) ∧
    (∀ n : Byte, n ≠ 0#8 → decodeLatch s.params.decodeLatch u.cmd.latch u.view = [.clickCountSet (n.setWidth 32)] →
      exec .ctrlLatch s = exec (.xClicks n) u) ∧
    (decodeLatch s.params.decodeLatch u.cmd.latch u.view = [.soctRequest] → exec .ctrlLatch s = exec .xSoct u) ∧
    (∀ q v, decodeLatch s.params.decodeLatch u.cmd.latch u.view = [.sensWrite q v] → exec .ctrlLatch s = exec (.xSens q v) u) ∧
    (∀ target dir, i32Operand s.operands = some target →
      decodeLatch s.params.decodeLatch u.cmd.latch u.view = [.autoseekStart target dir] →
      exec .ctrlLatch s = exec (.xSeek dir) u) ∧
    (∀ d q v, decodeLatch s.params.decodeLatch u.cmd.latch u.view = [.sledSet d, .sensWrite q v] →
      exec .ctrlLatch s = thenExec (exec (.xSled d) u) (.xSens q v))

/-- THE MODEL'S CHOICE (notes/assumptions/9.md; R103 has no row in R101): a command byte as an operation of its own is its delivery (R244) followed by a latch
service (R245). Where CTRL is in `Top` with an empty queue and a free lock, the whole byte enters the latch and its top nibble selects the SENS output. -/
def Obligations.CommandByteEntersTheLatch : Prop :=
  ∀ (s : State) (b : Byte),
    exec (.cmd8 b) s = thenExec (exec (.envCmd b) s) .ctrlLatch ∧
    (s.halted = false → s.ctrlPhase = .top → s.cmd.cmdQueue = [] → s.draws.lockContendedAt ≠ some 0 → ∃ t, exec (.cmd8 b) s = .next t ∧
      t.cmd.cmdQueue = [] ∧ t.cmd.latch = (s.cmd.latch >>> 8) ||| (b.setWidth 24 <<< 16) ∧
      t.cmd.currentSens = b.extractLsb' 4 4 ∧ t = { s with cmd := t.cmd, motion := t.motion })

/-! ## The CTRL iteration and its chain -/

/-- Every CTRL operation completes: it answers a next state in every state, but for a transmission at a negative sector (R151), which no run reaches. -/
def Obligations.CtrlEventsComplete : Prop :=
  ∀ (i : Instr) (s : State), opClass i = .ctrl → 0 ≤ s.pos.sector.toInt → ∃ t, exec i s = .next t

/-- R230: an iteration in `Top` is the latch service, then the chain, then the authentication check; one that finds an expired wait completes the wait's
branch and then checks; one during a sequence is a step of the sequence; one that finds an unexpired wait, or the startup, changes nothing, and so does
every iteration of a halted CORE. -/
def Obligations.IterationIsItsParts : Prop :=
  (∀ s : State, s.halted = true → exec .ctrlIter s = .next s) ∧
  ∀ s : State, s.halted = false →
    (s.ctrlPhase = .top → exec .ctrlIter s = thenExec (thenExec (exec .ctrlLatch s) .ctrlChain) .ctrlAuthchk) ∧
    (∀ d, s.ctrlPhase = .soctSettle d → d ≤ s.now.toNat → exec .ctrlIter s = thenExec (exec .ctrlSoct s) .ctrlAuthchk) ∧
    (∀ d, s.ctrlPhase = .playDelay d → d ≤ s.now.toNat → exec .ctrlIter s = thenExec (exec .ctrlPlay s) .ctrlAuthchk) ∧
    (∀ d, s.ctrlPhase = .soctSettle d ∨ s.ctrlPhase = .playDelay d → s.now.toNat < d → exec .ctrlIter s = .next s) ∧
    (s.ctrlPhase = .auth → exec .ctrlIter s = exec .ctrlAuthstep s.beginIteration) ∧
    (s.ctrlPhase = .startup → exec .ctrlIter s = .next s)

/-- R232, R240: in `Top` the chain runs the first branch whose guard holds, in the order SOCT, sled, autoseek, play, and none when no guard holds; the event
of a branch the chain would not select changes nothing; outside `Top` neither the chain nor a branch event changes anything, but that `CTRL_SOCT` and `CTRL_PLAY`
complete their own waits (the statements `SoctService` and `SubchannelTransmission`). THE MODEL'S CHOICE (notes/assumptions/13.md), in the last clause: outside
`Top` neither `CTRL_LATCH` nor `CTRL_CHAIN` changes anything. -/
def Obligations.ChainPriority : Prop :=
  ∀ s : State, s.halted = false →
    (s.ctrlPhase = .top →
      (s.motion.soctPending = true → exec .ctrlChain s = exec .ctrlSoct s ∧
        exec .ctrlSled s = .next s ∧ exec .ctrlSeekdone s = .next s ∧ exec .ctrlPlay s = .next s) ∧
      (s.motion.soctPending = false → s.motion.sledDirection ≠ .stop → exec .ctrlChain s = exec .ctrlSled s ∧
        exec .ctrlSoct s = .next s ∧ exec .ctrlSeekdone s = .next s ∧ exec .ctrlPlay s = .next s) ∧
      (s.motion.soctPending = false → s.motion.sledDirection = .stop → s.motion.autoseekActive = true →
        exec .ctrlChain s = exec .ctrlSeekdone s ∧
        exec .ctrlSoct s = .next s ∧ exec .ctrlSled s = .next s ∧ exec .ctrlPlay s = .next s) ∧
      (s.motion.soctPending = false → s.motion.sledDirection = .stop → s.motion.autoseekActive = false →
        sensBit s.cmd.sens s.params.sensFok = true → exec .ctrlChain s = exec .ctrlPlay s ∧
        exec .ctrlSoct s = .next s ∧ exec .ctrlSled s = .next s ∧ exec .ctrlSeekdone s = .next s) ∧
      (s.motion.soctPending = false → s.motion.sledDirection = .stop → s.motion.autoseekActive = false →
        sensBit s.cmd.sens s.params.sensFok = false → exec .ctrlChain s = .next s.beginIteration ∧
        exec .ctrlSoct s = .next s ∧ exec .ctrlSled s = .next s ∧ exec .ctrlSeekdone s = .next s ∧ exec .ctrlPlay s = .next s)) ∧
    (s.ctrlPhase ≠ .top →
      exec .ctrlLatch s = .next s ∧ exec .ctrlChain s = .next s ∧ exec .ctrlSled s = .next s ∧ exec .ctrlSeekdone s = .next s ∧
      ((∀ d, s.ctrlPhase ≠ .soctSettle d) → exec .ctrlSoct s = .next s) ∧
      ((∀ d, s.ctrlPhase ≠ .playDelay d) → exec .ctrlPlay s = .next s))

/-- R236, with R235: a pending SOCT request blocks CTRL for the settle delay; when the delay has passed both flags are cleared, the position is clamped (one in
range is not moved) and CTRL is back in `Top`; before that nothing changes. -/
def Obligations.SoctService : Prop :=
  ∀ s : State, s.params.Ok → s.halted = false →
    (s.ctrlPhase = .top → s.motion.soctPending = true →
      exec .ctrlSoct s = .next { s.beginIteration with ctrlPhase := .soctSettle (s.now.toNat + s.params.soctSettleUs) }) ∧
    (∀ d, s.ctrlPhase = .soctSettle d → s.now.toNat < d → exec .ctrlSoct s = .next s) ∧
    (∀ d, s.ctrlPhase = .soctSettle d → d ≤ s.now.toNat → ∃ t, exec .ctrlSoct s = .next t ∧
      ClampedPosition s.params s.pos.sector.toInt s.pos.track.toInt s.pos.sectorForTrackUpdate.toInt t.pos ∧
      (PositionOk s.params s.pos → t.pos = s.pos ∧ t.out = s.out) ∧
      t.pos.currentLogicalTrack = s.pos.currentLogicalTrack ∧ t.out = { s.out with diag := t.out.diag } ∧
      t = { s.beginIteration with
            pos := t.pos, motion := { s.motion with soctPending := false, soctEnabled := false }, ctrlPhase := .top, out := t.out })

/-- R237, with R233 and R235, and the limit switch (R54, R247): a sled step. -/
def Obligations.SledStep : Prop :=
  ∀ s : State, s.params.Ok → s.halted = false → s.ctrlPhase = .top → s.motion.soctPending = false → s.motion.sledDirection ≠ .stop →
    ((s.now - s.motion.lastMotionTime).toNat < s.params.trackMoveIntervalUs → exec .ctrlSled s = .next s.beginIteration) ∧
    (s.params.trackMoveIntervalUs ≤ (s.now - s.motion.lastMotionTime).toNat → ∃ t, exec .ctrlSled s = .next t ∧
      (∀ k, k = s.pos.track.toInt + (if s.motion.sledDirection = .forward then 1 else -1) →
        ClampedPosition s.params (sectorOfTrackInt k) k (sectorOfTrackInt k) t.pos) ∧
      t.limitOut = decide (3000 < t.pos.sector.toInt) ∧
      t.pos.currentLogicalTrack = s.pos.currentLogicalTrack ∧
      (s.motion.tracksPerClick ≤ s.motion.clickAccum + 1#32 → t.motion.clickAccum = 0#32 ∧
        ∀ q, sensBit t.cmd.sens q = if q = s.params.sensClick then !sensBit s.cmd.sens q else sensBit s.cmd.sens q) ∧
      (s.motion.clickAccum + 1#32 < s.motion.tracksPerClick →
        t.motion.clickAccum = s.motion.clickAccum + 1#32 ∧ t.cmd.sens = s.cmd.sens) ∧
      t.motion = { s.motion with lastMotionTime := s.now, clickAccum := t.motion.clickAccum } ∧
      t.cmd = { s.cmd with sens := t.cmd.sens } ∧ t.out = { s.out with diag := t.out.diag } ∧
      t = { s.beginIteration with pos := t.pos, motion := t.motion, cmd := t.cmd, out := t.out })

/-- R238, with R233 and R235, and the limit switch (R54, R247): autoseek completion. -/
def Obligations.SeekCompletion : Prop :=
  ∀ s : State, s.params.Ok → s.halted = false → s.ctrlPhase = .top → s.motion.soctPending = false → s.motion.sledDirection = .stop →
    s.motion.autoseekActive = true →
    ((s.now - s.motion.autoseekStart).toNat
        < (s.motion.autoseekTarget.toInt - s.pos.track.toInt).natAbs * s.params.autoseekPerTrackUs →
      exec .ctrlSeekdone s = .next s.beginIteration) ∧
    ((s.motion.autoseekTarget.toInt - s.pos.track.toInt).natAbs * s.params.autoseekPerTrackUs
        ≤ (s.now - s.motion.autoseekStart).toNat → ∃ t, exec .ctrlSeekdone s = .next t ∧
      ClampedPosition s.params (sectorOfTrackInt s.motion.autoseekTarget.toInt) s.motion.autoseekTarget.toInt
        (sectorOfTrackInt s.motion.autoseekTarget.toInt) t.pos ∧
      t.limitOut = decide (3000 < t.pos.sector.toInt) ∧
      t.pos.currentLogicalTrack = s.pos.currentLogicalTrack ∧
      (∀ q, sensBit t.cmd.sens q =
        if q = s.params.sensXbusy then false
        else if q = s.params.sensClick then !sensBit s.cmd.sens q else sensBit s.cmd.sens q) ∧
      t.cmd = { s.cmd with sens := t.cmd.sens } ∧ t.out = { s.out with diag := t.out.diag } ∧
      t = { s.beginIteration with
            pos := t.pos, motion := { s.motion with autoseekActive := false }, cmd := t.cmd, out := t.out })

/-- R239, with R234 and R235, and the limit switch (R54, R247): a play advance. -/
def Obligations.PlayAdvance : Prop :=
  ∀ s : State, s.params.Ok → s.halted = false → s.ctrlPhase = .top → s.motion.soctPending = false → s.motion.sledDirection = .stop →
    s.motion.autoseekActive = false → sensBit s.cmd.sens s.params.sensFok = true →
    (s.subq.consumed = false → exec .ctrlPlay s = .next s.beginIteration) ∧
    (s.subq.consumed = true → ∃ t, exec .ctrlPlay s = .next t ∧
      (s.pos.sector.toInt + 1 - s.pos.sectorForTrackUpdate.toInt < sectorsPerTrackInt s.pos.track.toInt →
        ClampedPosition s.params (s.pos.sector.toInt + 1) s.pos.track.toInt s.pos.sectorForTrackUpdate.toInt t.pos) ∧
      (sectorsPerTrackInt s.pos.track.toInt ≤ s.pos.sector.toInt + 1 - s.pos.sectorForTrackUpdate.toInt →
        ClampedPosition s.params (s.pos.sector.toInt + 1) (s.pos.track.toInt + 1) (s.pos.sector.toInt + 1) t.pos) ∧
      t.limitOut = decide (3000 < t.pos.sector.toInt) ∧
      t.pos.currentLogicalTrack = s.pos.currentLogicalTrack ∧ t.out = { s.out with diag := t.out.diag } ∧
      t = { s.beginIteration with
            pos := t.pos, ctrlPhase := .playDelay (s.now.toNat + s.params.subqDelayUs), out := t.out })

/-- R241: at the end of the play delay the block of the sector current at that moment is packed into the lane, the track it resolved is cached, and the
cycle counts as not consumed; before the deadline nothing changes. The lane is written only there, and by the reset. -/
def Obligations.SubchannelTransmission : Prop :=
  (∀ (i : Instr) (s t : State), exec i s = .next t → t.subq.lane ≠ s.subq.lane →
    i = .poweron ∨ ((i = .ctrlPlay ∨ i = .ctrlIter) ∧ ∃ d, s.ctrlPhase = .playDelay d ∧ d ≤ s.now.toNat)) ∧
  ∀ (s : State) (d : Nat), s.halted = false → s.ctrlPhase = .playDelay d →
    (s.now.toNat < d → exec .ctrlPlay s = .next s) ∧
    (d ≤ s.now.toNat → 0 ≤ s.pos.sector.toInt → ∃ r, subq s.params s.layout s.inputs.controlMode s.pos.sector.toInt = some r ∧
      exec .ctrlPlay s = .next { s.beginIteration with
        pos := { s.pos with
          currentLogicalTrack := match r.lookup with
            | some t => BitVec.ofNat 8 t
            | none => s.pos.currentLogicalTrack }
        subq := { consumed := false, lane := pack r.raw }
        ctrlPhase := .top })

/-- R83, R87(1), as notes/assumptions/8.md reads them (THE MODEL'S CHOICE): each of STRM's shared reads is, by its own draw, the newest value or the one in
`old`; a CTRL event changes no position and no `old`, or it leaves in `old` the values at its start, whatever it writes, so that what CTRL wrote before it
is visible to STRM after it; and it does the second where it is an iteration: in `Top`, at the end of a settle or play delay, and during a sequence, and as
the event of the branch the chain selects. -/
def Obligations.StaleReadIsOneIterationOld : Prop :=
  (∀ s : State,
    s.sharedSector = (if s.draws.staleSector then s.old.sector else s.pos.sector) ∧
    s.sharedTrack = (if s.draws.staleTrack then s.old.currentLogicalTrack else s.pos.currentLogicalTrack) ∧
    s.sharedImage = (if s.draws.staleImage then s.old.imageIndex else s.inputs.imageIndex) ∧
    s.reloadImage = (if s.draws.staleReload then s.old.imageIndex else s.inputs.imageIndex)) ∧
  ∀ (i : Instr) (s t : State) (start : OldShared), opClass i = .ctrl → exec i s = .next t →
    start = { sector := s.pos.sector, currentLogicalTrack := s.pos.currentLogicalTrack, imageIndex := s.inputs.imageIndex } →
    t.inputs = s.inputs ∧ ((t.pos = s.pos ∧ t.old = s.old) ∨ t.old = start) ∧
    (s.halted = false →
      (s.ctrlPhase = .top → i = .ctrlIter ∨ i = .ctrlChain → t.old = start) ∧
      (∀ d, s.ctrlPhase = .soctSettle d → d ≤ s.now.toNat → i = .ctrlIter ∨ i = .ctrlSoct → t.old = start) ∧
      (∀ d, s.ctrlPhase = .playDelay d → d ≤ s.now.toNat → i = .ctrlIter ∨ i = .ctrlPlay → t.old = start) ∧
      (s.ctrlPhase = .auth → i = .ctrlIter → t.old = start) ∧
      (s.ctrlPhase = .top → s.motion.soctPending = true → i = .ctrlSoct → t.old = start) ∧
      (s.ctrlPhase = .top → s.motion.soctPending = false → s.motion.sledDirection ≠ .stop → i = .ctrlSled → t.old = start) ∧
      (s.ctrlPhase = .top → s.motion.soctPending = false → s.motion.sledDirection = .stop → s.motion.autoseekActive = true →
        i = .ctrlSeekdone → t.old = start) ∧
      (s.ctrlPhase = .top → s.motion.soctPending = false → s.motion.sledDirection = .stop → s.motion.autoseekActive = false →
        sensBit s.cmd.sens s.params.sensFok = true → i = .ctrlPlay → t.old = start))

/-! ## Authentication -/

/-- R280 to R282: a check in `Top` that qualifies counts one and takes the time; the count that exceeds 100 fires the sequence, with the line low; a check
that does not qualify, or that comes outside `Top`, changes nothing. -/
def Obligations.AuthCheckAndFire : Prop :=
  (∀ s : State, s.ctrlPhase ≠ .top → exec .ctrlAuthchk s = .next s) ∧
  ∀ s : State, s.halted = false → s.ctrlPhase = .top → s.auth.counter.toNat ≤ 100 →
    ∀ q : Bool, (q = true ↔ ((s.params.authWinLo : Int) ≤ s.pos.sector.toInt ∧ s.pos.sector.toInt < s.params.authWinHi) ∧
        sensBit s.cmd.sens s.params.sensFok = true ∧ s.inputs.overrideFlag = false ∧ s.layout.hasData = false ∧
        13333 ≤ (s.now - s.auth.lastCheck).toNat) →
    (q = false → exec .ctrlAuthchk s = .next s) ∧
    (q = true → s.auth.counter.toNat < 100 → exec .ctrlAuthchk s = .next { s with
      auth := { s.auth with counter := s.auth.counter + 1#32, lastCheck := s.now } }) ∧
    (q = true → s.auth.counter.toNat = 100 → exec .ctrlAuthchk s = .next { s with
      ctrlPhase := .auth
      auth := { s.auth with counter := 0#32, lastCheck := s.now, phase := .leadLow, phaseStart := s.now, line := false } })

/-- R283 to R290: the table of durations, levels and successors, the abort test at each boundary before the completion, and the schedule: the next phase
starts a duration after the last one did, whenever the step runs. `stays` says that the sector is in the window and the override is not set. Outside `Auth` a
step changes nothing. -/
def Obligations.AuthSequenceStep : Prop :=
  (∀ s : State, s.ctrlPhase ≠ .auth → exec .ctrlAuthstep s = .next s) ∧
  ∀ (s : State) (dur : Nat) (nxt : Option AuthPhase), s.halted = false → s.ctrlPhase = .auth →
    ((s.auth.phase = .leadLow ∧ dur = 90000 ∧ nxt = some (.bit 0 0)) ∨
     (∃ r i, s.auth.phase = .bit r i ∧ dur = 4000 ∧
      ((∃ h : i.val + 1 < 44, nxt = some (.bit r ⟨i.val + 1, h⟩)) ∨
       (i.val = 43 ∧ ∃ h : r.val < 5, nxt = some (.gap ⟨r.val, h⟩)) ∨
       (i.val = 43 ∧ r.val = 5 ∧ nxt = none))) ∨
     (∃ r : Fin 5, s.auth.phase = .gap r ∧ dur = 90000 ∧ nxt = some (.bit ⟨r.val + 1, by omega⟩ 0))) →
    ∀ stays : Bool, (stays = true ↔ (s.params.authWinLo : Int) ≤ s.pos.sector.toInt ∧ s.pos.sector.toInt < s.params.authWinHi ∧
        s.inputs.overrideFlag = false) →
    ((s.now - s.auth.phaseStart).toNat < dur → exec .ctrlAuthstep s = .next s) ∧
    (dur ≤ (s.now - s.auth.phaseStart).toNat → stays = false → exec .ctrlAuthstep s = .next { s with
      ctrlPhase := .top, auth := { s.auth with phase := .idle, line := s.params.authIdleAfterAbort } }) ∧
    (dur ≤ (s.now - s.auth.phaseStart).toNat → stays = true → nxt = none → exec .ctrlAuthstep s = .next { s with
      ctrlPhase := .top, auth := { s.auth with phase := .idle, line := true } }) ∧
    (∀ n, dur ≤ (s.now - s.auth.phaseStart).toNat → stays = true → nxt = some n → exec .ctrlAuthstep s = .next { s with
      auth := { s.auth with
        phaseStart := s.auth.phaseStart + BitVec.ofNat 64 dur, phase := n
        line := match n with
          | .idle => true
          | .leadLow => false
          | .bit r i =>
            (if r.val % 3 = 0 then s.params.authPattern0 else if r.val % 3 = 1 then s.params.authPattern1
              else s.params.authPattern2).getLsbD i.val
          | .gap _ => false } })

/-- R285, R286, R291: the lead-in low and the gaps are low, and bit i of repetition r is bit i of pattern `r mod 3`; a full sequence is the lead-in low, 6 × 44
bit cells and 5 gaps, 1,596,000 µs in all, and then it is done. -/
def Obligations.AuthSequenceSchedule : Prop :=
  (∀ (p : Params) (r : Fin 6) (i : Fin 44) (g : Fin 5),
    authLevel p .leadLow = false ∧ authLevel p (.gap g) = false ∧
    (r.val % 3 = 0 → authLevel p (.bit r i) = p.authPattern0.getLsbD i.val) ∧
    (r.val % 3 = 1 → authLevel p (.bit r i) = p.authPattern1.getLsbD i.val) ∧
    (r.val % 3 = 2 → authLevel p (.bit r i) = p.authPattern2.getLsbD i.val)) ∧
  ((List.range 270).map (fun k => authDuration (authSuccessor^[k] .leadLow))).sum = 1596000 ∧
  (∀ k < 270, authSuccessor^[k] .leadLow ≠ .idle) ∧ authSuccessor^[270] .leadLow = .idle

/-- R292: while a sequence runs, no CTRL event moves the head, takes a command byte or writes the lane, and the other CTRL events change nothing at all. -/
def Obligations.AuthBlocksTheController : Prop :=
  ∀ s : State, s.halted = false → s.ctrlPhase = .auth →
    (∃ t, exec .ctrlIter s = .next t ∧ t = { s with ctrlPhase := t.ctrlPhase, auth := t.auth, old := t.old } ∧
      t.auth.counter = s.auth.counter) ∧
    (∀ i, i = .ctrlLatch ∨ i = .ctrlChain ∨ i = .ctrlSoct ∨ i = .ctrlSled ∨ i = .ctrlSeekdone ∨ i = .ctrlPlay ∨ i = .ctrlAuthchk →
      exec i s = .next s)

/-! ## Streamer -/

/-- R197: the bytes of a sector read, from a stream with handle `h`: a read that answers n gives the n bytes at the address (at most 2352) and zeros after
them; a failed or negative seek reads from the stream's start instead; a failed rewind or read gives silence; a stream `none` gives silence. -/
def Obligations.SectorReadRecovers : Prop :=
  ∀ (s : State) (h : Nat) (addr : Int), (s.sectorRead (some h) addr).bytes.length = 2352 ∧
    (∀ n, s.draws.readAnswer = some n → 0 ≤ addr → s.draws.seekOk = true → ∀ i < 2352,
      (s.sectorRead (some h) addr).bytes[i]? = some (if i < n then s.storage.read h (addr.toNat + i) else 0#8)) ∧
    (∀ n, s.draws.readAnswer = some n → addr < 0 ∨ s.draws.seekOk = false → s.draws.rewindOk = true → ∀ i < 2352,
      (s.sectorRead (some h) addr).bytes[i]? = some (if i < n then s.storage.read h i else 0#8)) ∧
    (addr < 0 ∨ s.draws.seekOk = false → s.draws.rewindOk = false → (s.sectorRead (some h) addr).bytes = List.replicate 2352 0#8) ∧
    (s.draws.readAnswer = none → (s.sectorRead (some h) addr).bytes = List.replicate 2352 0#8) ∧
    (s.sectorRead none addr).bytes = List.replicate 2352 0#8

/-- R198, R199, R204: PREPARE reads the shared sector (notes/assumptions/8.md says what a shared read may see), remembers it, writes every word of the filling frame and no word of the active one, and waits for the
drain report or, where one is remembered, for the clock. `key` is the sector's key (R191), `k` its track (R193), and `j` the slot that holds the key
afterwards. -/
def Obligations.PrepareFillsTheFrame : Prop :=
  ∀ (s : State) (key : I32) (k : Nat),
    s.Inv → s.poweredOn = true → s.halted = false → s.strm.phase = .prepare → s.sharedImage = s.strm.loadedImage →
    key.toInt = (if s.sharedSector.toInt < s.params.leadInSectors then s.sharedSector.toInt.tmod s.params.preleadinKeyMod
      else s.sharedSector.toInt) →
    k = (match s.params.streamerTrackSource with
      | .lookup => trackOf s.params s.layout s.sharedSector.toInt
      | .logical =>
        if s.sharedTrack.toNat < 1 ∨ s.layout.trackCount.toNat + 1 < s.sharedTrack.toNat then 1 else s.sharedTrack.toNat) →
    ∃ (t : State) (j : Nat) (c : Slot) (filling active : List U32), exec .strmPrepare s = .next t ∧
      t.strm.cache[j]? = some c ∧ c.valid = true ∧ c.key = key ∧
      t.strm.preparedSector = s.sharedSector ∧
      (if s.strm.activeIdx = 0#1 then filling = t.strm.frame1 ∧ active = t.strm.frame0 ∧ active = s.strm.frame0
        else filling = t.strm.frame0 ∧ active = t.strm.frame1 ∧ active = s.strm.frame1) ∧
      filling.length = 1176 ∧
      (∀ i < 1176, ∃ w, c.buf[i]? = some w ∧ filling[i]? = some
        (if s.sharedSector.toInt < s.params.leadInSectors then 0#32
         else if (trackAt s.layout k).trackType = .data then condition (scramble s.scrambleKey w i)
         else condition w)) ∧
      (s.strm.drainPending = true → t.strm.phase = .waitClock ∧ t.strm.drainPending = false ∧ t.strm.clockEdges = 0#2) ∧
      (s.strm.drainPending = false → t.strm.phase = .waitDrain ∧ t.strm.drainPending = false ∧ t.strm.clockEdges = s.strm.clockEdges) ∧
      t.strm.activeIdx = s.strm.activeIdx ∧ t.strm.playingSector = s.strm.playingSector ∧ t.strm.wclkLevel = s.strm.wclkLevel ∧
      t.strm.loadedImage = s.strm.loadedImage ∧
      t = { s with strm := t.strm, out := { s.out with diag := t.out.diag, reads := t.out.reads } }

/-- R194 to R196, with `key` the sector's key (R191) and `k` its track (R193): PREPARE of a resident sector reads no storage and changes no slot; of any other it makes one storage request, at R194's address, fills
the slot at the cursor with the key and with the samples of the bytes read, low byte first, whatever the read answered, and moves the cursor round-robin;
either way the sector is resident afterwards (R206). -/
def Obligations.PrepareCachesTheSector : Prop :=
  ∀ (s : State) (key : I32) (k : Nat),
    s.Inv → s.poweredOn = true → s.halted = false → s.strm.phase = .prepare → s.sharedImage = s.strm.loadedImage →
    key.toInt = (if s.sharedSector.toInt < s.params.leadInSectors then s.sharedSector.toInt.tmod s.params.preleadinKeyMod
      else s.sharedSector.toInt) →
    k = (match s.params.streamerTrackSource with
      | .lookup => trackOf s.params s.layout s.sharedSector.toInt
      | .logical =>
        if s.sharedTrack.toNat < 1 ∨ s.layout.trackCount.toNat + 1 < s.sharedTrack.toNat then 1 else s.sharedTrack.toNat) →
    ∃ (t : State) (j : Nat), exec .strmPrepare s = .next t ∧ lookup t.strm.cache key = some j ∧
      (lookup s.strm.cache key ≠ none →
        t.strm.cache = s.strm.cache ∧ t.strm.writeCursor = s.strm.writeCursor ∧ t.out.reads = s.out.reads) ∧
      (lookup s.strm.cache key = none →
        j = s.strm.writeCursor.toNat ∧ t.strm.writeCursor.toNat = (s.strm.writeCursor.toNat + 1) % 50 ∧
        (∀ i, i ≠ j → t.strm.cache[i]? = s.strm.cache[i]?) ∧
        ∃ (e : Track) (addr : Int) (c : Slot), e = trackAt s.layout k ∧
          addr = (key.toInt - e.fileOffset.toInt) * 2352 ∧
          t.out.reads = s.out.reads ++ [{ stream := e.stream, addr := addr }] ∧
          t.strm.cache[j]? = some c ∧ c.valid = true ∧ c.key = key ∧ c.buf.length = 1176 ∧
          ∀ i < 1176, ∃ lo hi, (s.sectorRead e.stream addr).bytes[2 * i]? = some lo ∧
            (s.sectorRead e.stream addr).bytes[2 * i + 1]? = some hi ∧ c.buf[i]? = some (hi ++ lo))

/-- R201: with two clock edges counted in `WaitClock`, SWAP makes the filled frame active and publishes its sector. -/
def Obligations.SwapPublishesTheFrame : Prop :=
  ∀ s : State, s.halted = false → s.strm.phase = .waitClock → s.strm.clockEdges = 2#2 → ∃ t, exec .strmSwap s = .next t ∧
    t = { s with strm := { s.strm with
      activeIdx := t.strm.activeIdx, playingSector := s.strm.preparedSector, clockEdges := 0#2, phase := .prepare } } ∧
    t.strm.activeIdx ≠ s.strm.activeIdx

/-- R205, R206(4): RELOAD installs the layout of the image its own read of the selection gives, invalidates all slots, zeroes both frames and resets the
cursors; a lookup afterwards finds nothing. THE MODEL'S CHOICE (notes/assumptions/8.md): that read, `reloadImage`, and the reload check's, `sharedImage`, are two
draws, and each may see the selection before its last change. -/
def Obligations.ReloadClearsTheStreamer : Prop :=
  ∀ s : State, s.halted = false → s.strm.phase = .prepare → s.sharedImage ≠ s.strm.loadedImage → ∃ t, exec .strmReload s = .next t ∧
    t.layout = installed s.params ((s.params.imageTable[s.reloadImage.toNat]?).getD { openFailed := true, entries := [] }) ∧
    (∀ c ∈ t.strm.cache, c.valid = false) ∧ t.strm.cache.length = s.strm.cache.length ∧ (∀ key, lookup t.strm.cache key = none) ∧
    t.strm = { s.strm with
      cache := t.strm.cache, frame0 := List.replicate 1176 0#32, frame1 := List.replicate 1176 0#32, writeCursor := 0#8,
      activeIdx := 0#1, drainPending := false, clockEdges := 0#2, loadedImage := s.reloadImage } ∧
    t = { s with strm := t.strm, layout := t.layout, out := { s.out with diag := t.out.diag } }

/-- R200: a STRM event whose phase or guard does not hold changes nothing. -/
def Obligations.BlockedStreamerChangesNothing : Prop :=
  ∀ s : State,
    (s.halted = true ∨ s.strm.phase ≠ .prepare ∨ s.sharedImage ≠ s.strm.loadedImage → exec .strmPrepare s = .next s) ∧
    (s.halted = true ∨ s.strm.phase ≠ .waitClock ∨ s.strm.clockEdges ≠ 2#2 → exec .strmSwap s = .next s) ∧
    (s.halted = true ∨ s.strm.phase ≠ .prepare ∨ s.sharedImage = s.strm.loadedImage → exec .strmReload s = .next s)

/-! ## Probes and pure functions -/

/-- R101, class P: a probe answers the function's value on its operands and changes no state; only its result is added to the outputs. The values'
own rules are the statements below. `P_SUBQ` answers at every sector from 0 on and at every negative one whose lead-in point is at least 1 (R151), as at -1.
THE MODEL'S CHOICE, in the clause on `P_LOAD`: the line's operands spell the description's entries as six numbers each, in R132's order, the type by its
code of R114 (notes/assumptions/6.md, DEDUCED from R116), and whether the description could be opened is a draw of the line (notes/assumptions/10.md). -/
def Obligations.ProbesAnswer : Prop :=
  ∀ (s : State) (x : I32) (w : U16) (i t : Int) (bs : List Byte) (es : List Track),
    ((∀ e ∈ es, e.stream ≠ none) →
      s.operands = es.flatMap (fun e => [if e.trackType = .data then 1 else 0, e.index0.toInt, e.index1.toInt, e.fileOffset.toInt,
        e.size.toInt, (e.stream.getD 0 : Int)]) →
      exec .pLoad s = .next (s.answer (.layout (load s.params { openFailed := !s.draws.descriptionOpens, entries := es })))) ∧
    (exec .pKeygen s = .next (s.answer (.key (keygen s.params)))) ∧
    (s.operands = [x.toInt] →
      exec .pTrackOf s = .next (s.answer (.track (trackOf s.params s.layout x.toInt))) ∧
      exec .pMsf s = .next (s.answer (.msf (msf x.toInt))) ∧
      exec .pBcd s = .next (s.answer (.byte (toBcd x.toInt))) ∧
      exec .pSectorOfTrack s = .next (s.answer (.i32 (sectorOfTrack x))) ∧
      exec .pSectorsPerTrack s = .next (s.answer (.i32 (sectorsPerTrack x))) ∧
      exec .pLookup s = .next (s.answer (.slot (lookup s.strm.cache x))) ∧
      (0 ≤ x.toInt ∨ 1 ≤ ((x.toInt - 1).tdiv 3).tmod (3 + s.layout.trackCount.toNat) + 1 →
        ∃ r, subq s.params s.layout s.inputs.controlMode x.toInt = some r ∧
        exec .pSubq s = .next (s.answer (.block r)))) ∧
    (s.operands = [t] → 1 ≤ t → t ≤ s.layout.trackCount.toNat + 1 →
      exec .pIsData s = .next (s.answer (.bool ((trackAt s.layout t.toNat).trackType == .data)))) ∧
    (s.operands = bs.map (fun b => (b.toNat : Int)) →
      (bs.length = 10 → exec .pCrc s = .next (s.answer (.crc (crc s.params bs)))) ∧
      (bs.length = 12 → exec .pPack s = .next (s.answer (.lane (pack bs))))) ∧
    (s.operands = [(w.toNat : Int), i] → 0 ≤ i → i < 1176 →
      exec .pScramble s = .next (s.answer (.sample (w ^^^ s.scrambleKey.getD i.toNat 0#16)))) ∧
    (s.operands = [(w.toNat : Int)] → exec .pCondition s = .next (s.answer (.laneWord (condition w)))) ∧
    (∀ r, s.answer r = { s with out := { s.out with probeOut := s.out.probeOut ++ [r] } })

/-- R137, R203, R151: the operands the spec refuses: a logical track out of range, a key index out of range, a lead-in point ≤ 0. -/
def Obligations.ProbesRefuseOutOfRange : Prop :=
  ∀ (s : State) (t i : Int) (w : U16) (x : I32),
    (s.operands = [t] → (t < 1 ∨ (s.layout.trackCount.toNat : Int) + 1 < t) → exec .pIsData s = .refused .trackOutOfRange) ∧
    (s.operands = [(w.toNat : Int), i] → (i < 0 ∨ 1176 ≤ i) → exec .pScramble s = .refused .keyIndexOutOfRange) ∧
    (s.operands = [x.toInt] → x.toInt < s.params.leadInSectors →
      ((x.toInt - 1).tdiv 3).tmod (3 + s.layout.trackCount.toNat) + 1 ≤ 0 → exec .pSubq s = .refused .noSuchPoint)

/-- R138, R140: MSF of a sector count takes minutes, seconds and frames of its absolute value, so that it does not depend on the sign; SECTOR inverts it. -/
def Obligations.MsfInverse : Prop :=
  ∀ s : Int, (msf s).mm = (s.natAbs / 75 / 60 : Nat) ∧ (msf s).ss = (s.natAbs / 75 % 60 : Nat) ∧ (msf s).ff = (s.natAbs % 75 : Nat) ∧
    msf (-s) = msf s ∧ (0 ≤ s → sectorOfMsf (msf s) = s)

/-- R109, R139: two decimal digits in 0..99, 0x99 above. -/
def Obligations.BcdDigits : Prop :=
  ∀ v : Int, (0 ≤ v → v ≤ 99 → ((toBcd v).toNat : Int) = v / 10 * 16 + v % 10) ∧ (99 < v → toBcd v = 0x99#8)

/-- R233, R234: the spiral functions are the exact rational formulas, truncated toward zero and rounded half away from zero; the `i32` the rules store is that
integer wherever an `i32` can hold it, as it can at every track from 0 to 40000. -/
def Obligations.SpiralIsExact : Prop :=
  (∀ t : Int, ∀ x y : ℚ, x = (t : ℚ) * t * (31499 / 100000000) + t * (9357516535 / 1000000000) →
    y = (t : ℚ) * (616397 / 1000000000) + 9 →
    sectorOfTrackInt t = (if 0 ≤ x then ⌊x⌋ else ⌈x⌉) ∧
    sectorsPerTrackInt t = (if 0 ≤ y then ⌊y + 1 / 2⌋ else ⌈y - 1 / 2⌉)) ∧
  ∀ t : I32, ((sectorsPerTrack t).toInt = sectorsPerTrackInt t.toInt) ∧
    (fitsI32 (sectorOfTrackInt t.toInt) → (sectorOfTrack t).toInt = sectorOfTrackInt t.toInt) ∧
    (0 ≤ t.toInt → t.toInt ≤ 40000 → fitsI32 (sectorOfTrackInt t.toInt))

/-- R166, R167: the table-driven CRC over a block's first ten bytes, from `CRC_INIT` and with the final `CRC_XOROUT`, is the bitwise one: each byte is xored into the high half of
the register, then eight MSB-first steps with polynomial 0x1021. -/
def Obligations.CrcIsBitwise : Prop :=
  ∀ (p : Params) (raw : List Byte),
    crc p raw = (raw.take 10).foldl (fun (c : U16) (b : Byte) =>
      (fun x : U16 => if x.getLsbD 15 then (x <<< 1) ^^^ 0x1021#16 else x <<< 1)^[8] (c ^^^ (b.setWidth 16 <<< 8))) p.crcInit ^^^ p.crcXorout

/-- R74, R170: byte j of lane word k is byte 4k + j of the block. -/
def Obligations.PackIsLittleEndian : Prop :=
  ∀ (raw : List Byte) (j : Nat), raw.length = 12 → j < 4 →
    (pack raw).w0.extractLsb' (8 * j) 8 = raw.getD j 0#8 ∧
    (pack raw).w1.extractLsb' (8 * j) 8 = raw.getD (4 + j) 0#8 ∧
    (pack raw).w2.extractLsb' (8 * j) 8 = raw.getD (8 + j) 0#8

/-- R112, R202, R203, R206(1): a conditioned word holds the sample in bits 23..8, bit 0 of it replicated into the low byte, and zeros in bits 31..24; a sample
scrambled twice with the same key is the sample. -/
def Obligations.SampleDatapath : Prop :=
  ∀ (key : List U16) (w : U16) (i : Nat),
    (condition w).extractLsb' 24 8 = 0#8 ∧ (condition w).extractLsb' 8 16 = w ∧
    (condition w).extractLsb' 0 8 = (if w.getLsbD 0 then 0xFF#8 else 0x00#8) ∧
    scramble key (scramble key w i) i = w

/-- R190: a feedback step feeds bit 0 xor bit 1 in at bit 15 and shifts right by one, so that it lands in bit 14 and bit 15 is clear; the key has 1176 words, the first
`KEY_SKIP_WORDS` zero, and word j after them holds the register's low byte after 16·j steps from the preset and, above it, its low byte eight steps later. -/
def Obligations.KeyGeneration : Prop :=
  (∀ k : U16, (keyStep k).getLsbD 15 = false ∧ (keyStep k).getLsbD 14 = ((k.getLsbD 0 ^^ k.getLsbD 1) || k.getLsbD 15) ∧
    ∀ i < 14, (keyStep k).getLsbD i = k.getLsbD (i + 1)) ∧
  (∀ p : Params, (keygen p).length = 1176 ∧ (∀ i < p.keySkipWords, (keygen p).getD i 0#16 = 0#16) ∧
    (∀ j, p.keySkipWords + j < 1176 →
      (keygen p).getD (p.keySkipWords + j) 0#16 =
        (keySteps (16 * j + 8) p.keyInit).extractLsb' 0 8 ++ (keySteps (16 * j) p.keyInit).extractLsb' 0 8))

/-! ## Layout and subchannel -/

/-- R132 to R135: LOAD rejects a description that could not be opened, then one with no track, too many tracks or an inconsistent entry; it builds every other one, with
its lead-out and `hasData`; and a description it rejects installs the single-track data disc. -/
def Obligations.LoadOrFallback : Prop :=
  ∀ (p : Params) (d : Description), p.Ok →
    (d.openFailed = true → load p d = .errOpen) ∧
    (d.openFailed = false → (load p d = .errMalformed ↔
      d.entries.length < 1 ∨ p.maxTracks < d.entries.length ∨ ∃ (t : Nat) (e : Track), d.entries[t]? = some e ∧
        (e.index1.toInt < e.index0.toInt ∨ e.size.toInt < 0 ∨ ∃ n : Track, d.entries[t + 1]? = some n ∧ n.index0.toInt < e.index1.toInt))) ∧
    (∀ L, load p d = .ok L → installed p d = L ∧ L.trackCount.toNat = d.entries.length ∧
      (∀ (t : Nat) (e : Track), d.entries[t]? = some e → trackAt L (t + 1) = e) ∧
      (∀ e x : Track, d.entries.getLast? = some e → trackAt L (d.entries.length + 1) = x →
        x = { e with index0 := x.index0, index1 := x.index0, size := 0#32 } ∧
        (e.index1.toInt + e.size.toInt < 2 ^ 31 → x.index0.toInt = e.index1.toInt + e.size.toInt)) ∧
      (L.hasData = true ↔ ∃ e ∈ d.entries, e.trackType = .data)) ∧
    (load p d = .errOpen ∨ load p d = .errMalformed → ∃ e x : Track,
      installed p d = { tracks := [e, x], trackCount := 1#8, hasData := true } ∧
      e.trackType = .data ∧ e.index0.toInt = p.leadInSectors ∧ e.index1.toInt = p.leadInSectors + 150 ∧
      e.fileOffset.toInt = p.leadInSectors + 150 ∧ e.size = 0#32 ∧
      (∀ (f : Track) (rest : List Track), d.entries = f :: rest → e.stream = f.stream) ∧ (d.entries = [] → e.stream = none) ∧
      x = { e with index0 := e.index1 })

/-- R141, of every layout INSTALL can leave: LOAD's result or the fallback. -/
def Obligations.InstalledLayoutIsConsistent : Prop :=
  ∀ (p : Params) (d : Description), p.Ok → LayoutOk p (installed p d)

/-- R136: TRACK_OF is the first track whose successor's bound, the field TRACK_BOUND_FIELD names, lies above the sector, and the lead-out when there is none. -/
def Obligations.TrackOfIsTheFirstBound : Prop :=
  ∀ (p : Params) (L : Layout) (s : Int) (t : Nat), t = trackOf p L s →
    1 ≤ t ∧ t ≤ L.trackCount.toNat + 1 ∧
    (t ≤ L.trackCount.toNat → s < (match p.trackBoundField with
      | .index0 => (trackAt L (t + 1)).index0.toInt
      | .index1 => (trackAt L (t + 1)).index1.toInt)) ∧
    (∀ u, 1 ≤ u → u < t → (match p.trackBoundField with
      | .index0 => (trackAt L (u + 1)).index0.toInt
      | .index1 => (trackAt L (u + 1)).index1.toInt) ≤ s)

/-- R151, R169: from sector 1 on, the lead-in visits points 1..T+3 in cycles of 3·(T+3), each point three times; sector 0 gives point 1. -/
def Obligations.LeadInPointCycle : Prop :=
  ∀ (L : Layout) (T : Nat) (k : Nat), T = L.trackCount.toNat →
    leadInPoint L 0 = 1 ∧
    leadInPoint L (3 * k + 1) = k % (T + 3) + 1 ∧ leadInPoint L (3 * k + 2) = k % (T + 3) + 1 ∧
    leadInPoint L (3 * k + 3) = k % (T + 3) + 1

/-- R152 to R156, R161, in the modes with a CRC (R162, R163, R168): the block of a lead-in sector: the control code of the track the point
is about, `u` (R106), track number 0, the point's code, the running time, and the point's value in bytes 7 to 9. -/
def Obligations.LeadInBlockContents : Prop :=
  ∀ (p : Params) (L : Layout) (m : ControlMode) (s : Int) (pt T : Nat) (run : Msf), (m = .normal ∨ m = .altNormal) →
    0 ≤ s → s < p.leadInSectors → (pt : Int) = leadInPoint L s → T = L.trackCount.toNat → run = msf (s - p.leadInSectors) →
    ∃ (r : SubqResult) (u : Nat) (ctl point a b c : Byte), subq p L m s = some r ∧ r.lookup = none ∧
      ctl = (if (trackAt L u).trackType = .data then p.ctrlData else p.ctrlAudio) ∧
      (let body := [ctl, 0x00#8, point, toBcd run.mm, toBcd run.ss, toBcd run.ff, 0x00#8, a, b, c]
       r.raw = body ++ [(crc p body).extractLsb' 8 8, (crc p body).extractLsb' 0 8]) ∧
      (pt ≤ T → u = pt ∧ point = toBcd pt ∧
        (pt = 1 → [a, b, c] = [0x00#8, 0x02#8, 0x00#8]) ∧
        (pt ≠ 1 → [a, b, c] = bcd3 (msf ((trackAt L pt).index1.toInt - p.leadInSectors)))) ∧
      (pt = T + 1 → u = 1 ∧ point = 0xA0#8 ∧
        [a, b, c] = [0x01#8, if L.hasData then p.a0PsecMixed else p.a0PsecAudio, 0x00#8]) ∧
      (pt = T + 2 → u = T ∧ point = 0xA1#8 ∧ [a, b, c] = [toBcd T, 0x00#8, 0x00#8]) ∧
      (pt = T + 3 → u = T ∧ point = 0xA2#8 ∧
        [a, b, c] = bcd3 (msf ((trackAt L (T + 1)).index1.toInt - p.leadInSectors))) ∧
      (1 ≤ pt ∧ pt ≤ T + 3)

/-- R157 to R161, in the modes with a CRC (R162, R163, R168): the block of a program-area or lead-out sector: the control code of the resolved track
(R106), the count-down of the first pre-gap, and the forward time after it and in the lead-out. THE MODEL'S CHOICE (notes/assumptions/20.md): a sector before
`LI + 150` that resolves to the lead-out of a short disc has the lead-out block, not the count-down. -/
def Obligations.ProgramBlockContents : Prop :=
  ∀ (p : Params) (L : Layout) (m : ControlMode) (s : Int) (t : Nat) (abs : Msf), (m = .normal ∨ m = .altNormal) →
    (p.leadInSectors : Int) ≤ s → t = trackOf p L s → abs = msf (s - p.leadInSectors) →
    ∃ (r : SubqResult) (tno x a b c : Byte), subq p L m s = some r ∧ r.lookup = some t ∧
      (let body := [if (trackAt L t).trackType = .data then p.ctrlData else p.ctrlAudio, tno, x, a, b, c, 0x00#8, toBcd abs.mm, toBcd abs.ss, toBcd abs.ff]
       r.raw = body ++ [(crc p body).extractLsb' 8 8, (crc p body).extractLsb' 0 8]) ∧
      (s < p.leadInSectors + 150 → t ≤ L.trackCount.toNat → tno = toBcd t ∧ x = 0x00#8 ∧ a = 0x00#8 ∧
        ∀ k, k = (p.leadInSectors : Int) + 150 - s - (p.pregapCountdownBias.val : Int) → b = toBcd (k / 75) ∧ c = toBcd (k % 75)) ∧
      ((p.leadInSectors : Int) + 150 ≤ s ∨ t = L.trackCount.toNat + 1 → tno = (if t = L.trackCount.toNat + 1 then 0xAA#8 else toBcd t) ∧ x = 0x01#8 ∧
        [a, b, c] = bcd3 (msf (s - (trackAt L t).index1.toInt)))

/-- R164, R165: in the meter modes a sector's block is the one of the mode Normal, but that no CRC is computed: one byte is overwritten, and bytes 10 and 11 are
zero unless it is one of them. A sector has a block in every mode or in none. -/
def Obligations.MeterModes : Prop :=
  ∀ (p : Params) (L : Layout) (s : Int),
    (∀ r, subq p L .normal s = some r → r.raw.length = 12 ∧ ∃ lm pm, subq p L .levelMeter s = some lm ∧ subq p L .peakMeter s = some pm ∧
      lm.lookup = r.lookup ∧ lm.raw.length = 12 ∧ pm.lookup = r.lookup ∧ pm.raw.length = 12 ∧
      ∀ i < 12,
        lm.raw.getD i 0#8 = (if i = p.lmByte.val then (if s % 2 = 0 then p.lmEven else p.lmOdd)
          else if i < 10 then r.raw.getD i 0#8 else 0x00#8) ∧
        pm.raw.getD i 0#8 = (if i = p.pmByte.val then p.pmValue else if i < 10 then r.raw.getD i 0#8 else 0x00#8)) ∧
    (∀ m : ControlMode, subq p L m s = none ↔ subq p L .normal s = none)

/-! ## The whole machine -/

/-- R82: who writes what: no CTRL event and no injected effect changes the streamer, the layout, the key or the inputs; no STRM event changes the position, the
phases of CTRL, the motion state, the command latch and SENS, the subchannel lane, the authentication state or the inputs; a probe changes only the outputs. -/
def Obligations.OwnershipOfState : Prop :=
  ∀ (i : Instr) (s t : State), exec i s = .next t →
    (opClass i = .ctrl ∨ opClass i = .effect ∨ opClass i = .commandByte →
      t.strm = s.strm ∧ t.layout = s.layout ∧ t.scrambleKey = s.scrambleKey ∧ t.inputs = s.inputs ∧
      t.out = { s.out with diag := t.out.diag }) ∧
    (opClass i = .strm →
      t.pos = s.pos ∧ t.ctrlPhase = s.ctrlPhase ∧ t.motion = s.motion ∧ t.subq = s.subq ∧ t.cmd = s.cmd ∧ t.auth = s.auth ∧
      t.scrambleKey = s.scrambleKey ∧ t.inputs = s.inputs ∧ t.old = s.old ∧
      t.out = { s.out with diag := t.out.diag, reads := t.out.reads }) ∧
    (opClass i = .probe → t = { s with out := { s.out with probeOut := t.out.probeOut } })

/-- R14, R9, R88: no step writes the storage streams or a parameter, time never goes back, and a step takes at most the next trace line. -/
def Obligations.StorageParametersAndTime : Prop :=
  ∀ s t : State, step s = .next t →
    t.storage = s.storage ∧ t.params = s.params ∧ s.now ≤ t.now ∧ t.trace = s.trace.tail

/-- The machine's invariant holds of the reset state. -/
def Obligations.ResetMeetsTheInvariant : Prop := State.reset.Inv

/-- Every step keeps the machine's invariant (Safety.lean, `State.Inv`: the ranges of R21, R22, R24 and R41, R141 for the layout, R206(2) for the cache, the
frame and key lengths, the agreement of phases, flags and time stamps, the canonical form of the storage). -/
def Obligations.EveryStepKeepsTheInvariant : Prop :=
  ∀ s t : State, s.Inv → step s = .next t → t.Inv
end

