-- ==== Sys2Proof/Laws/State.lean ====
section
/-! SUPPORT. Sys2Proof/Laws/State.lean: one lemma per field per shared update of the state. -/

namespace Sys2Proof.Machine

/-! ## `State.note` -/

@[simp] theorem State.note_pos (s : State) (ds : List Diag) : (s.note ds).pos = s.pos := rfl
@[simp] theorem State.note_ctrlPhase (s : State) (ds : List Diag) : (s.note ds).ctrlPhase = s.ctrlPhase := rfl
@[simp] theorem State.note_motion (s : State) (ds : List Diag) : (s.note ds).motion = s.motion := rfl
@[simp] theorem State.note_subq (s : State) (ds : List Diag) : (s.note ds).subq = s.subq := rfl
@[simp] theorem State.note_cmd (s : State) (ds : List Diag) : (s.note ds).cmd = s.cmd := rfl
@[simp] theorem State.note_auth (s : State) (ds : List Diag) : (s.note ds).auth = s.auth := rfl
@[simp] theorem State.note_strm (s : State) (ds : List Diag) : (s.note ds).strm = s.strm := rfl
@[simp] theorem State.note_scrambleKey (s : State) (ds : List Diag) : (s.note ds).scrambleKey = s.scrambleKey := rfl
@[simp] theorem State.note_layout (s : State) (ds : List Diag) : (s.note ds).layout = s.layout := rfl
@[simp] theorem State.note_inputs (s : State) (ds : List Diag) : (s.note ds).inputs = s.inputs := rfl
@[simp] theorem State.note_halted (s : State) (ds : List Diag) : (s.note ds).halted = s.halted := rfl
@[simp] theorem State.note_haltCause (s : State) (ds : List Diag) : (s.note ds).haltCause = s.haltCause := rfl
@[simp] theorem State.note_ctrlReady (s : State) (ds : List Diag) : (s.note ds).ctrlReady = s.ctrlReady := rfl
@[simp] theorem State.note_strmReady (s : State) (ds : List Diag) : (s.note ds).strmReady = s.strmReady := rfl
@[simp] theorem State.note_params (s : State) (ds : List Diag) : (s.note ds).params = s.params := rfl
@[simp] theorem State.note_poweredOn (s : State) (ds : List Diag) : (s.note ds).poweredOn = s.poweredOn := rfl
@[simp] theorem State.note_old (s : State) (ds : List Diag) : (s.note ds).old = s.old := rfl
@[simp] theorem State.note_storage (s : State) (ds : List Diag) : (s.note ds).storage = s.storage := rfl
@[simp] theorem State.note_now (s : State) (ds : List Diag) : (s.note ds).now = s.now := rfl
@[simp] theorem State.note_operands (s : State) (ds : List Diag) : (s.note ds).operands = s.operands := rfl
@[simp] theorem State.note_draws (s : State) (ds : List Diag) : (s.note ds).draws = s.draws := rfl
@[simp] theorem State.note_trace (s : State) (ds : List Diag) : (s.note ds).trace = s.trace := rfl
@[simp] theorem State.note_out (s : State) (ds : List Diag) : (s.note ds).out = { s.out with diag := s.out.diag ++ ds } := rfl

/-! ## `State.answer` -/

@[simp] theorem State.answer_pos (s : State) (r : ProbeResult) : (s.answer r).pos = s.pos := rfl
@[simp] theorem State.answer_ctrlPhase (s : State) (r : ProbeResult) : (s.answer r).ctrlPhase = s.ctrlPhase := rfl
@[simp] theorem State.answer_motion (s : State) (r : ProbeResult) : (s.answer r).motion = s.motion := rfl
@[simp] theorem State.answer_subq (s : State) (r : ProbeResult) : (s.answer r).subq = s.subq := rfl
@[simp] theorem State.answer_cmd (s : State) (r : ProbeResult) : (s.answer r).cmd = s.cmd := rfl
@[simp] theorem State.answer_auth (s : State) (r : ProbeResult) : (s.answer r).auth = s.auth := rfl
@[simp] theorem State.answer_strm (s : State) (r : ProbeResult) : (s.answer r).strm = s.strm := rfl
@[simp] theorem State.answer_scrambleKey (s : State) (r : ProbeResult) : (s.answer r).scrambleKey = s.scrambleKey := rfl
@[simp] theorem State.answer_layout (s : State) (r : ProbeResult) : (s.answer r).layout = s.layout := rfl
@[simp] theorem State.answer_inputs (s : State) (r : ProbeResult) : (s.answer r).inputs = s.inputs := rfl
@[simp] theorem State.answer_halted (s : State) (r : ProbeResult) : (s.answer r).halted = s.halted := rfl
@[simp] theorem State.answer_haltCause (s : State) (r : ProbeResult) : (s.answer r).haltCause = s.haltCause := rfl
@[simp] theorem State.answer_ctrlReady (s : State) (r : ProbeResult) : (s.answer r).ctrlReady = s.ctrlReady := rfl
@[simp] theorem State.answer_strmReady (s : State) (r : ProbeResult) : (s.answer r).strmReady = s.strmReady := rfl
@[simp] theorem State.answer_params (s : State) (r : ProbeResult) : (s.answer r).params = s.params := rfl
@[simp] theorem State.answer_poweredOn (s : State) (r : ProbeResult) : (s.answer r).poweredOn = s.poweredOn := rfl
@[simp] theorem State.answer_old (s : State) (r : ProbeResult) : (s.answer r).old = s.old := rfl
@[simp] theorem State.answer_storage (s : State) (r : ProbeResult) : (s.answer r).storage = s.storage := rfl
@[simp] theorem State.answer_now (s : State) (r : ProbeResult) : (s.answer r).now = s.now := rfl
@[simp] theorem State.answer_operands (s : State) (r : ProbeResult) : (s.answer r).operands = s.operands := rfl
@[simp] theorem State.answer_draws (s : State) (r : ProbeResult) : (s.answer r).draws = s.draws := rfl
@[simp] theorem State.answer_trace (s : State) (r : ProbeResult) : (s.answer r).trace = s.trace := rfl
@[simp] theorem State.answer_out (s : State) (r : ProbeResult) : (s.answer r).out = { s.out with probeOut := s.out.probeOut ++ [r] } := rfl

/-! ## `State.raiseFatal` -/

@[simp] theorem State.raiseFatal_pos (s : State) (c : HaltCause) : (s.raiseFatal c).pos = s.pos := rfl
@[simp] theorem State.raiseFatal_ctrlPhase (s : State) (c : HaltCause) : (s.raiseFatal c).ctrlPhase = s.ctrlPhase := rfl
@[simp] theorem State.raiseFatal_motion (s : State) (c : HaltCause) : (s.raiseFatal c).motion = s.motion := rfl
@[simp] theorem State.raiseFatal_subq (s : State) (c : HaltCause) : (s.raiseFatal c).subq = s.subq := rfl
@[simp] theorem State.raiseFatal_cmd (s : State) (c : HaltCause) : (s.raiseFatal c).cmd = s.cmd := rfl
@[simp] theorem State.raiseFatal_auth (s : State) (c : HaltCause) : (s.raiseFatal c).auth = s.auth := rfl
@[simp] theorem State.raiseFatal_strm (s : State) (c : HaltCause) : (s.raiseFatal c).strm = s.strm := rfl
@[simp] theorem State.raiseFatal_scrambleKey (s : State) (c : HaltCause) : (s.raiseFatal c).scrambleKey = s.scrambleKey := rfl
@[simp] theorem State.raiseFatal_layout (s : State) (c : HaltCause) : (s.raiseFatal c).layout = s.layout := rfl
@[simp] theorem State.raiseFatal_inputs (s : State) (c : HaltCause) : (s.raiseFatal c).inputs = s.inputs := rfl
@[simp] theorem State.raiseFatal_halted (s : State) (c : HaltCause) : (s.raiseFatal c).halted = true := rfl
@[simp] theorem State.raiseFatal_haltCause (s : State) (c : HaltCause) : (s.raiseFatal c).haltCause = c := rfl
@[simp] theorem State.raiseFatal_ctrlReady (s : State) (c : HaltCause) : (s.raiseFatal c).ctrlReady = s.ctrlReady := rfl
@[simp] theorem State.raiseFatal_strmReady (s : State) (c : HaltCause) : (s.raiseFatal c).strmReady = s.strmReady := rfl
@[simp] theorem State.raiseFatal_params (s : State) (c : HaltCause) : (s.raiseFatal c).params = s.params := rfl
@[simp] theorem State.raiseFatal_poweredOn (s : State) (c : HaltCause) : (s.raiseFatal c).poweredOn = s.poweredOn := rfl
@[simp] theorem State.raiseFatal_old (s : State) (c : HaltCause) : (s.raiseFatal c).old = s.old := rfl
@[simp] theorem State.raiseFatal_storage (s : State) (c : HaltCause) : (s.raiseFatal c).storage = s.storage := rfl
@[simp] theorem State.raiseFatal_now (s : State) (c : HaltCause) : (s.raiseFatal c).now = s.now := rfl
@[simp] theorem State.raiseFatal_operands (s : State) (c : HaltCause) : (s.raiseFatal c).operands = s.operands := rfl
@[simp] theorem State.raiseFatal_draws (s : State) (c : HaltCause) : (s.raiseFatal c).draws = s.draws := rfl
@[simp] theorem State.raiseFatal_trace (s : State) (c : HaltCause) : (s.raiseFatal c).trace = s.trace := rfl
@[simp] theorem State.raiseFatal_out (s : State) (c : HaltCause) : (s.raiseFatal c).out = s.out := rfl

/-! ## `State.setPosition` -/

@[simp] theorem State.setPosition_pos (s : State) (e : ExactPos) : (s.setPosition e).pos = { s.pos with sector := narrowI32 e.sector, track := narrowI32 e.track, sectorForTrackUpdate := narrowI32 e.sectorForTrackUpdate } := rfl
@[simp] theorem State.setPosition_ctrlPhase (s : State) (e : ExactPos) : (s.setPosition e).ctrlPhase = s.ctrlPhase := rfl
@[simp] theorem State.setPosition_motion (s : State) (e : ExactPos) : (s.setPosition e).motion = s.motion := rfl
@[simp] theorem State.setPosition_subq (s : State) (e : ExactPos) : (s.setPosition e).subq = s.subq := rfl
@[simp] theorem State.setPosition_cmd (s : State) (e : ExactPos) : (s.setPosition e).cmd = s.cmd := rfl
@[simp] theorem State.setPosition_auth (s : State) (e : ExactPos) : (s.setPosition e).auth = s.auth := rfl
@[simp] theorem State.setPosition_strm (s : State) (e : ExactPos) : (s.setPosition e).strm = s.strm := rfl
@[simp] theorem State.setPosition_scrambleKey (s : State) (e : ExactPos) : (s.setPosition e).scrambleKey = s.scrambleKey := rfl
@[simp] theorem State.setPosition_layout (s : State) (e : ExactPos) : (s.setPosition e).layout = s.layout := rfl
@[simp] theorem State.setPosition_inputs (s : State) (e : ExactPos) : (s.setPosition e).inputs = s.inputs := rfl
@[simp] theorem State.setPosition_halted (s : State) (e : ExactPos) : (s.setPosition e).halted = s.halted := rfl
@[simp] theorem State.setPosition_haltCause (s : State) (e : ExactPos) : (s.setPosition e).haltCause = s.haltCause := rfl
@[simp] theorem State.setPosition_ctrlReady (s : State) (e : ExactPos) : (s.setPosition e).ctrlReady = s.ctrlReady := rfl
@[simp] theorem State.setPosition_strmReady (s : State) (e : ExactPos) : (s.setPosition e).strmReady = s.strmReady := rfl
@[simp] theorem State.setPosition_params (s : State) (e : ExactPos) : (s.setPosition e).params = s.params := rfl
@[simp] theorem State.setPosition_poweredOn (s : State) (e : ExactPos) : (s.setPosition e).poweredOn = s.poweredOn := rfl
@[simp] theorem State.setPosition_old (s : State) (e : ExactPos) : (s.setPosition e).old = s.old := rfl
@[simp] theorem State.setPosition_storage (s : State) (e : ExactPos) : (s.setPosition e).storage = s.storage := rfl
@[simp] theorem State.setPosition_now (s : State) (e : ExactPos) : (s.setPosition e).now = s.now := rfl
@[simp] theorem State.setPosition_operands (s : State) (e : ExactPos) : (s.setPosition e).operands = s.operands := rfl
@[simp] theorem State.setPosition_draws (s : State) (e : ExactPos) : (s.setPosition e).draws = s.draws := rfl
@[simp] theorem State.setPosition_trace (s : State) (e : ExactPos) : (s.setPosition e).trace = s.trace := rfl
@[simp] theorem State.setPosition_out (s : State) (e : ExactPos) : (s.setPosition e).out = s.out := rfl

/-! ## `State.finishAt` -/

@[simp] theorem State.finishAt_pos (s : State) (e : ExactPos) : (s.finishAt e).pos = (s.setPosition (clampPos s.params e)).pos := rfl
@[simp] theorem State.finishAt_ctrlPhase (s : State) (e : ExactPos) : (s.finishAt e).ctrlPhase = s.ctrlPhase := rfl
@[simp] theorem State.finishAt_motion (s : State) (e : ExactPos) : (s.finishAt e).motion = s.motion := rfl
@[simp] theorem State.finishAt_subq (s : State) (e : ExactPos) : (s.finishAt e).subq = s.subq := rfl
@[simp] theorem State.finishAt_cmd (s : State) (e : ExactPos) : (s.finishAt e).cmd = s.cmd := rfl
@[simp] theorem State.finishAt_auth (s : State) (e : ExactPos) : (s.finishAt e).auth = s.auth := rfl
@[simp] theorem State.finishAt_strm (s : State) (e : ExactPos) : (s.finishAt e).strm = s.strm := rfl
@[simp] theorem State.finishAt_scrambleKey (s : State) (e : ExactPos) : (s.finishAt e).scrambleKey = s.scrambleKey := rfl
@[simp] theorem State.finishAt_layout (s : State) (e : ExactPos) : (s.finishAt e).layout = s.layout := rfl
@[simp] theorem State.finishAt_inputs (s : State) (e : ExactPos) : (s.finishAt e).inputs = s.inputs := rfl
@[simp] theorem State.finishAt_halted (s : State) (e : ExactPos) : (s.finishAt e).halted = s.halted := rfl
@[simp] theorem State.finishAt_haltCause (s : State) (e : ExactPos) : (s.finishAt e).haltCause = s.haltCause := rfl
@[simp] theorem State.finishAt_ctrlReady (s : State) (e : ExactPos) : (s.finishAt e).ctrlReady = s.ctrlReady := rfl
@[simp] theorem State.finishAt_strmReady (s : State) (e : ExactPos) : (s.finishAt e).strmReady = s.strmReady := rfl
@[simp] theorem State.finishAt_params (s : State) (e : ExactPos) : (s.finishAt e).params = s.params := rfl
@[simp] theorem State.finishAt_poweredOn (s : State) (e : ExactPos) : (s.finishAt e).poweredOn = s.poweredOn := rfl
@[simp] theorem State.finishAt_old (s : State) (e : ExactPos) : (s.finishAt e).old = s.old := rfl
@[simp] theorem State.finishAt_storage (s : State) (e : ExactPos) : (s.finishAt e).storage = s.storage := rfl
@[simp] theorem State.finishAt_now (s : State) (e : ExactPos) : (s.finishAt e).now = s.now := rfl
@[simp] theorem State.finishAt_operands (s : State) (e : ExactPos) : (s.finishAt e).operands = s.operands := rfl
@[simp] theorem State.finishAt_draws (s : State) (e : ExactPos) : (s.finishAt e).draws = s.draws := rfl
@[simp] theorem State.finishAt_trace (s : State) (e : ExactPos) : (s.finishAt e).trace = s.trace := rfl
@[simp] theorem State.finishAt_out (s : State) (e : ExactPos) : (s.finishAt e).out = { s.out with diag := s.out.diag ++ clampDiag s.params e } := rfl

/-! ## `State.beginIteration` -/

@[simp] theorem State.beginIteration_pos (s : State) : s.beginIteration.pos = s.pos := rfl
@[simp] theorem State.beginIteration_ctrlPhase (s : State) : s.beginIteration.ctrlPhase = s.ctrlPhase := rfl
@[simp] theorem State.beginIteration_motion (s : State) : s.beginIteration.motion = s.motion := rfl
@[simp] theorem State.beginIteration_subq (s : State) : s.beginIteration.subq = s.subq := rfl
@[simp] theorem State.beginIteration_cmd (s : State) : s.beginIteration.cmd = s.cmd := rfl
@[simp] theorem State.beginIteration_auth (s : State) : s.beginIteration.auth = s.auth := rfl
@[simp] theorem State.beginIteration_strm (s : State) : s.beginIteration.strm = s.strm := rfl
@[simp] theorem State.beginIteration_scrambleKey (s : State) : s.beginIteration.scrambleKey = s.scrambleKey := rfl
@[simp] theorem State.beginIteration_layout (s : State) : s.beginIteration.layout = s.layout := rfl
@[simp] theorem State.beginIteration_inputs (s : State) : s.beginIteration.inputs = s.inputs := rfl
@[simp] theorem State.beginIteration_halted (s : State) : s.beginIteration.halted = s.halted := rfl
@[simp] theorem State.beginIteration_haltCause (s : State) : s.beginIteration.haltCause = s.haltCause := rfl
@[simp] theorem State.beginIteration_ctrlReady (s : State) : s.beginIteration.ctrlReady = s.ctrlReady := rfl
@[simp] theorem State.beginIteration_strmReady (s : State) : s.beginIteration.strmReady = s.strmReady := rfl
@[simp] theorem State.beginIteration_params (s : State) : s.beginIteration.params = s.params := rfl
@[simp] theorem State.beginIteration_poweredOn (s : State) : s.beginIteration.poweredOn = s.poweredOn := rfl
@[simp] theorem State.beginIteration_old (s : State) : s.beginIteration.old = { sector := s.pos.sector, currentLogicalTrack := s.pos.currentLogicalTrack, imageIndex := s.inputs.imageIndex } := rfl
@[simp] theorem State.beginIteration_storage (s : State) : s.beginIteration.storage = s.storage := rfl
@[simp] theorem State.beginIteration_now (s : State) : s.beginIteration.now = s.now := rfl
@[simp] theorem State.beginIteration_operands (s : State) : s.beginIteration.operands = s.operands := rfl
@[simp] theorem State.beginIteration_draws (s : State) : s.beginIteration.draws = s.draws := rfl
@[simp] theorem State.beginIteration_trace (s : State) : s.beginIteration.trace = s.trace := rfl
@[simp] theorem State.beginIteration_out (s : State) : s.beginIteration.out = s.out := rfl

/-! ## `State.takeLine` -/

@[simp] theorem State.takeLine_pos (s : State) (l : TraceLine) (rest : List TraceLine) : (s.takeLine l rest).pos = s.pos := rfl
@[simp] theorem State.takeLine_ctrlPhase (s : State) (l : TraceLine) (rest : List TraceLine) : (s.takeLine l rest).ctrlPhase = s.ctrlPhase := rfl
@[simp] theorem State.takeLine_motion (s : State) (l : TraceLine) (rest : List TraceLine) : (s.takeLine l rest).motion = s.motion := rfl
@[simp] theorem State.takeLine_subq (s : State) (l : TraceLine) (rest : List TraceLine) : (s.takeLine l rest).subq = s.subq := rfl
@[simp] theorem State.takeLine_cmd (s : State) (l : TraceLine) (rest : List TraceLine) : (s.takeLine l rest).cmd = s.cmd := rfl
@[simp] theorem State.takeLine_auth (s : State) (l : TraceLine) (rest : List TraceLine) : (s.takeLine l rest).auth = s.auth := rfl
@[simp] theorem State.takeLine_strm (s : State) (l : TraceLine) (rest : List TraceLine) : (s.takeLine l rest).strm = s.strm := rfl
@[simp] theorem State.takeLine_scrambleKey (s : State) (l : TraceLine) (rest : List TraceLine) : (s.takeLine l rest).scrambleKey = s.scrambleKey := rfl
@[simp] theorem State.takeLine_layout (s : State) (l : TraceLine) (rest : List TraceLine) : (s.takeLine l rest).layout = s.layout := rfl
@[simp] theorem State.takeLine_inputs (s : State) (l : TraceLine) (rest : List TraceLine) : (s.takeLine l rest).inputs = s.inputs := rfl
@[simp] theorem State.takeLine_halted (s : State) (l : TraceLine) (rest : List TraceLine) : (s.takeLine l rest).halted = s.halted := rfl
@[simp] theorem State.takeLine_haltCause (s : State) (l : TraceLine) (rest : List TraceLine) : (s.takeLine l rest).haltCause = s.haltCause := rfl
@[simp] theorem State.takeLine_ctrlReady (s : State) (l : TraceLine) (rest : List TraceLine) : (s.takeLine l rest).ctrlReady = s.ctrlReady := rfl
@[simp] theorem State.takeLine_strmReady (s : State) (l : TraceLine) (rest : List TraceLine) : (s.takeLine l rest).strmReady = s.strmReady := rfl
@[simp] theorem State.takeLine_params (s : State) (l : TraceLine) (rest : List TraceLine) : (s.takeLine l rest).params = s.params := rfl
@[simp] theorem State.takeLine_poweredOn (s : State) (l : TraceLine) (rest : List TraceLine) : (s.takeLine l rest).poweredOn = s.poweredOn := rfl
@[simp] theorem State.takeLine_old (s : State) (l : TraceLine) (rest : List TraceLine) : (s.takeLine l rest).old = s.old := rfl
@[simp] theorem State.takeLine_storage (s : State) (l : TraceLine) (rest : List TraceLine) : (s.takeLine l rest).storage = s.storage := rfl
@[simp] theorem State.takeLine_now (s : State) (l : TraceLine) (rest : List TraceLine) : (s.takeLine l rest).now = l.time := rfl
@[simp] theorem State.takeLine_operands (s : State) (l : TraceLine) (rest : List TraceLine) : (s.takeLine l rest).operands = l.operands := rfl
@[simp] theorem State.takeLine_draws (s : State) (l : TraceLine) (rest : List TraceLine) : (s.takeLine l rest).draws = l.draws := rfl
@[simp] theorem State.takeLine_trace (s : State) (l : TraceLine) (rest : List TraceLine) : (s.takeLine l rest).trace = rest := rfl
@[simp] theorem State.takeLine_out (s : State) (l : TraceLine) (rest : List TraceLine) : (s.takeLine l rest).out = s.out := rfl

end Sys2Proof.Machine
end

