-- ==== Sys2Proof/Laws/Ops.lean ====
section
/-! SUPPORT. Sys2Proof/Laws/Ops.lean: what each shared operation can do, said once: the fetch and the step, the operands, the SENS flags, and storing a clamped
position. -/

namespace Sys2Proof.Machine

/-! ## Fetch and step -/

/-- The fetch of a line whose word spells an operation that may run now. -/
theorem fetch_run {s : State} {l : TraceLine} {rest : List TraceLine} {i : Instr} (htr : s.trace = l :: rest)
    (ht : s.now ≤ l.time) (hd : decode l.word = .op i) (ha : admitted i s = true) :
    fetch s = .run i (s.takeLine l rest) := by
  have : ¬ l.time < s.now := by simpa using ht
  simp [fetch, htr, this, hd, ha]

/-- Everything a step that answers a next state can have done: nothing at an ended trace, or the operation of the next line. -/
theorem step_cases {s t : State} (h : step s = .next t) :
    (s.trace = [] ∧ t = s) ∨
    ∃ l rest i, s.trace = l :: rest ∧ s.now ≤ l.time ∧ decode l.word = .op i ∧ admitted i s = true ∧
      exec i (s.takeLine l rest) = .next t := by
  rcases hs : s.trace with _ | ⟨l, rest⟩
  · exact .inl ⟨rfl, by simpa [step, fetch, hs] using h.symm⟩
  · refine .inr ⟨l, rest, ?_⟩
    by_cases ht : l.time < s.now
    · simp [step, fetch, hs, ht] at h
    · rcases hd : decode l.word with i | ⟨op, arg⟩
      · by_cases ha : admitted i s = true
        · refine ⟨i, rfl, by simpa using ht, rfl, ha, ?_⟩
          simpa [step, fetch, hs, ht, hd, ha] using h
        · simp [step, fetch, hs, ht, hd, ha] at h
      · simp [step, fetch, hs, ht, hd] at h

/-! ## Parameters -/

/-- The simulation parameters are in the ranges of R9. -/
theorem simulation_ok : Config.simulation.Ok where
  leadIn := by decide
  maxTracks := by decide
  trackMax := by decide
  sectorMax := by decide
  keyMod := by decide
  clicks := by decide
  sensCodes := by decide
  latchTable := fun r hr => by cases hr
  keySkip := by decide
  authWindow := by decide

/-! ## Operands -/

theorem fitsI32_toInt (x : I32) : fitsI32 x.toInt := by
  have := BitVec.toInt_lt (x := x); have := BitVec.le_toInt x
  exact ⟨by omega, by omega⟩

/-- A stored value that fits reads back exactly. -/
theorem narrowI32_toInt {x : Int} (h : fitsI32 x) : (narrowI32 x).toInt = x := by
  rw [narrowI32, if_pos h, BitVec.toInt_ofInt, Int.bmod_eq_of_le]
  · have := h.1; norm_num at this ⊢; omega
  · have := h.2; norm_num at this ⊢; omega

@[simp] theorem narrowI32_of_toInt (x : I32) : narrowI32 x.toInt = x := by
  rw [narrowI32, if_pos (fitsI32_toInt x), BitVec.ofInt_toInt]

theorem i32Operand_toInt (x : I32) : i32Operand [x.toInt] = some x := by
  simp only [i32Operand, if_pos (fitsI32_toInt x), BitVec.ofInt_toInt]

theorem u16Operand_toNat (w : U16) : u16Operand [(w.toNat : Int)] = some w := by
  have : (w.toNat : Int) < 65536 := by have := w.isLt; omega
  simp [u16Operand, this]

theorem sampleAndIndex_toNat (w : U16) (i : Int) : sampleAndIndex [(w.toNat : Int), i] = some (w, i) := by
  have : (w.toNat : Int) < 65536 := by have := w.isLt; omega
  simp [sampleAndIndex, this]

theorem byteOperands_toNat (bs : List Byte) : byteOperands bs.length (bs.map (fun b => (b.toNat : Int))) = some bs := by
  have h : ∀ b : Byte, (b.toNat : Int) < 256 := fun b => by have := b.isLt; omega
  simp [byteOperands, h, Function.comp_def]

/-- A track type's code names it (R114). -/
@[simp] theorem trackTypeOfCode_code (k : TrackType) : trackTypeOfCode (k.code.toNat : Int) = some k := by cases k <;> rfl

/-- The numbers of a description's entries, each with a stream, read back as the entries. -/
theorem trackOperands_entries (es : List Track) (h : ∀ e ∈ es, e.stream ≠ none) :
    trackOperands (es.flatMap (fun e => [if e.trackType = .data then 1 else 0, e.index0.toInt, e.index1.toInt, e.fileOffset.toInt,
      e.size.toInt, (e.stream.getD 0 : Int)])) = some es := by
  induction es with
  | nil => rfl
  | cons e es ih =>
    have ih := ih (fun x hx => h x (List.mem_cons_of_mem _ hx))
    have he := h e (List.mem_cons_self ..)
    obtain ⟨k, a, b, c, d, st⟩ := e
    obtain ⟨n, rfl⟩ := Option.ne_none_iff_exists'.mp he
    simp only [List.flatMap_cons, List.cons_append, List.nil_append, trackOperands, ih]
    cases k <;> simp [trackOfOperands, trackTypeOfCode, i32Operand_toInt]

/-! ## SENS flags -/

/-- Writing a flag changes that flag and no other. -/
theorem sensBit_setSensBit (v : U16) (q k : BitVec 4) (b : Bool) :
    sensBit (setSensBit v q b) k = if k = q then b else sensBit v k := by
  have hq := q.isLt
  have hk := k.isLt
  have hne : k ≠ q → k.toNat ≠ q.toNat := fun h e => h (BitVec.eq_of_toNat_eq e)
  by_cases h : k = q
  · subst h
    cases b <;> simp [sensBit, setSensBit, hk]
  · have h' := hne h
    rcases Nat.lt_or_gt_of_ne h' with h1 | h1
    · cases b <;> simp [sensBit, setSensBit, h, h1, hk]
    · have : ¬ k.toNat < q.toNat := by omega
      have hs : k.toNat - q.toNat ≠ 0 := by omega
      cases b <;> simp [sensBit, setSensBit, h, hk, this, hs]

/-- Toggling a flag inverts that flag and changes no other. -/
theorem sensBit_toggleSensBit (v : U16) (q k : BitVec 4) :
    sensBit (toggleSensBit v q) k = if k = q then !sensBit v k else sensBit v k := by
  rw [toggleSensBit, sensBit_setSensBit]
  split <;> simp_all

/-! ## Position -/

/-- The end of a branch body stores CLAMP's values (R235). -/
theorem finishAt_clamped (s : State) (e : ExactPos) (hp : s.params.Ok) :
    ClampedPosition s.params e.sector e.track e.sectorForTrackUpdate (s.finishAt e).pos := by
  have h1 := hp.trackMax
  have h2 := hp.sectorMax
  have hz : narrowI32 0 = 0#32 := by decide
  constructor
  · intro h
    simp [State.finishAt, State.setPosition, clampPos, h, hz]
  · intro hs ht
    have hn : ¬ (e.sector < 0 ∨ e.track < 0) := by omega
    simp only [State.finishAt, State.note_pos, State.setPosition_pos, clampPos, hn, if_false]
    refine ⟨?_, ?_, fun a b => narrowI32_toInt ⟨a, b⟩⟩
    · split
      · rw [narrowI32_toInt ⟨by omega, by omega⟩]; omega
      · rw [narrowI32_toInt ⟨by omega, by omega⟩]; omega
    · split
      · rw [narrowI32_toInt ⟨by omega, by omega⟩]; omega
      · rw [narrowI32_toInt ⟨by omega, by omega⟩]; omega

/-- `SPT` of any track is an `i32` value (R234), so nothing of it is unstated. -/
theorem sectorsPerTrack_toInt (t : I32) : (sectorsPerTrack t).toInt = sectorsPerTrackInt t.toInt := by
  have h1 := t.toInt_lt
  have h2 := t.le_toInt
  apply narrowI32_toInt
  unfold sectorsPerTrackInt roundHalfAway fitsI32
  generalize t.toInt = x at *
  rcases lt_trichotomy (x * 616397 + 9000000000) 0 with h | h | h
  · rw [Int.sign_eq_neg_one_of_neg h]; omega
  · rw [h]; simp
  · rw [Int.sign_eq_one_of_pos h]; omega

/-- The end of a branch body changes the three position values and the diagnostic log. -/
theorem finishAt_eq (s : State) (e : ExactPos) :
    s.finishAt e = { s with
      pos := { (s.finishAt e).pos with currentLogicalTrack := s.pos.currentLogicalTrack }
      out := { s.out with diag := s.out.diag ++ clampDiag s.params e } } := rfl

/-- A position in range is stored as it is. -/
theorem finishAt_exactPos (s : State) (h : PositionOk s.params s.pos) : s.finishAt s.exactPos = s := by
  obtain ⟨⟨h1, h2⟩, ⟨h3, h4⟩, -⟩ := h
  have n1 : ¬ (s.exactPos.sector < 0 ∨ s.exactPos.track < 0) := by simp only [State.exactPos]; omega
  have n2 : ¬ s.exactPos.sector > s.params.sectorMax := by simp only [State.exactPos]; omega
  have n3 : ¬ s.exactPos.track > s.params.trackMax := by simp only [State.exactPos]; omega
  have e : clampPos s.params s.exactPos = s.exactPos := by rw [clampPos, if_neg n1, if_neg n2, if_neg n3]
  have d : clampDiag s.params s.exactPos = [] := by simp [clampDiag, clampHigh, clampNegative, n1, n2, n3]
  rw [State.finishAt, e, d]
  simp [State.note, State.setPosition, State.exactPos]

end Sys2Proof.Machine
end

