-- ==== Sys2Proof/Laws/Disc.lean ====
section
/-! SUPPORT. Sys2Proof/Laws/Disc.lean: the track table, the queries over it, and the blocks and lane words generated from it. -/

namespace Sys2Proof.Machine

/-! ## Track table -/

/-- Entries 1..T of a built layout are the description's. -/
theorem trackAt_layoutOf {es : List Track} {k : Nat} (h : k < es.length) : trackAt (layoutOf es) (k + 1) = es[k] := by
  simp [trackAt, layoutOf, List.getElem?_append, h]

/-- Entry T + 1 of a built layout is its lead-out. -/
theorem trackAt_layoutOf_leadOut (es : List Track) :
    trackAt (layoutOf es) (es.length + 1) = leadOutAfter (es.getLastD blankTrack) := by
  simp [trackAt, layoutOf]

theorem layoutOf_trackCount {es : List Track} (h : es.length < 256) : (layoutOf es).trackCount.toNat = es.length := by
  simpa [layoutOf] using h

@[simp] theorem fallbackTrack_index0 (p : Params) (d : Description) : (fallbackTrack p d).index0 = narrowI32 p.leadInSectors := by rw [fallbackTrack]
@[simp] theorem fallbackTrack_index1 (p : Params) (d : Description) :
    (fallbackTrack p d).index1 = narrowI32 (p.leadInSectors + 150) := by rw [fallbackTrack]
@[simp] theorem fallbackTrack_fileOffset (p : Params) (d : Description) :
    (fallbackTrack p d).fileOffset = narrowI32 (p.leadInSectors + 150) := by rw [fallbackTrack]

/-- A layout that LOAD answers is built from the description's entries, which pass its checks. -/
theorem load_ok {p : Params} {d : Description} {L : Layout} (h : load p d = .ok L) :
    d.openFailed = false ∧ 1 ≤ d.entries.length ∧ d.entries.length ≤ p.maxTracks ∧ entriesConsistent d.entries = true ∧
      L = layoutOf d.entries := by
  unfold load at h
  split at h
  · cases h
  · split at h
    · cases h
    · rename_i hc
      split at h
      · rename_i he
        exact ⟨by simp_all, by omega, by omega, he, (LoadResult.ok.inj h).symm⟩
      · cases h

/-- TRACK_OF answers a logical track or the lead-out. -/
theorem trackOf_range (p : Params) (L : Layout) (s : Int) : 1 ≤ trackOf p L s ∧ trackOf p L s ≤ L.trackCount.toNat + 1 := by
  unfold trackOf
  split
  · rename_i k hk
    have := List.mem_range.mp (List.mem_of_find?_eq_some hk)
    omega
  · simp [leadOutNumber]

/-! ## Blocks -/

/-- The point of a lead-in sector that is not negative is one of 1..T + 3. -/
theorem leadInPoint_range (L : Layout) {s : Int} (hs : 0 ≤ s) :
    1 ≤ leadInPoint L s ∧ leadInPoint L s ≤ L.trackCount.toNat + 3 := by
  have h0 : 0 ≤ (s - 1).tdiv 3 := by
    by_cases h : s = 0
    · subst h; decide
    · exact Int.tdiv_nonneg (by omega) (by norm_num)
  have h1 := Int.tmod_nonneg (3 + (L.trackCount.toNat : Int)) h0
  have h2 := Int.tmod_lt_of_pos ((s - 1).tdiv 3) (by omega : (0 : Int) < 3 + L.trackCount.toNat)
  unfold leadInPoint
  omega

/-- A sector whose lead-in point is at least 1 has a block, a negative one too (R151). -/
theorem subq_isSome_of_point (p : Params) (L : Layout) (m : ControlMode) {s : Int} (h : 1 ≤ leadInPoint L s) :
    ∃ r, subq p L m s = some r := by
  unfold subq
  split
  · rw [if_neg (by omega)]; exact ⟨_, rfl⟩
  · exact ⟨_, rfl⟩

/-- Every sector that is not negative has a block. -/
theorem subq_isSome (p : Params) (L : Layout) (m : ControlMode) {s : Int} (hs : 0 ≤ s) : ∃ r, subq p L m s = some r :=
  subq_isSome_of_point p L m (leadInPoint_range L hs).1

/-- The track a block's generation resolved is one of 1..T + 1. -/
theorem subq_lookup {p : Params} {L : Layout} {m : ControlMode} {s : Int} {r : SubqResult} {t : Nat}
    (h : subq p L m s = some r) (ht : r.lookup = some t) : 1 ≤ t ∧ t ≤ L.trackCount.toNat + 1 := by
  unfold subq at h
  split at h
  · split at h
    · cases h
    · obtain rfl := Option.some.inj h; cases ht
  · obtain rfl := Option.some.inj h
    obtain rfl := Option.some.inj ht
    exact trackOf_range p L s

/-- A CRC is stored over the two last bytes of a block, and does not change the ten it is computed from. -/
theorem storeCrc_block (p : Params) (b0 b1 b2 b3 b4 b5 b6 b7 b8 b9 x y : Byte) :
    storeCrc p [b0, b1, b2, b3, b4, b5, b6, b7, b8, b9, x, y] =
      [b0, b1, b2, b3, b4, b5, b6, b7, b8, b9] ++
        [(crc p [b0, b1, b2, b3, b4, b5, b6, b7, b8, b9]).extractLsb' 8 8,
          (crc p [b0, b1, b2, b3, b4, b5, b6, b7, b8, b9]).extractLsb' 0 8] := rfl

/-- A sector has a block in every control mode or in none, and the mode acts on the same ten bytes, with bytes 10 and 11 zero before it. -/
theorem subq_modes (p : Params) (L : Layout) (s : Int) : (∀ m, subq p L m s = none) ∨
    ∃ b0 b1 b2 b3 b4 b5 b6 b7 b8 b9 lk, ∀ m, subq p L m s = some
      { raw := applyMode p m s [b0, b1, b2, b3, b4, b5, b6, b7, b8, b9, 0#8, 0#8], lookup := lk } := by
  unfold subq
  split
  · split
    · exact .inl fun _ => rfl
    · refine .inr ?_
      have : ∃ b0 b1 b2 b3 b4 b5 b6 b7 b8 b9, leadInBlock p L s (leadInPoint L s).toNat = [b0, b1, b2, b3, b4, b5, b6, b7, b8, b9, 0#8, 0#8] := by
        unfold leadInBlock
        dsimp only
        split
        · unfold tocTrackAbs; split <;> exact ⟨_, _, _, _, _, _, _, _, _, _, rfl⟩
        · split
          · exact ⟨_, _, _, _, _, _, _, _, _, _, rfl⟩
          · split <;> exact ⟨_, _, _, _, _, _, _, _, _, _, rfl⟩
      obtain ⟨b0, b1, b2, b3, b4, b5, b6, b7, b8, b9, h⟩ := this
      exact ⟨b0, b1, b2, b3, b4, b5, b6, b7, b8, b9, _, fun m => by rw [h]⟩
  · refine .inr ?_
    have : ∃ b0 b1 b2 b3 b4 b5 b6 b7 b8 b9, programBlock p L s (trackOf p L s) = [b0, b1, b2, b3, b4, b5, b6, b7, b8, b9, 0#8, 0#8] := by
      unfold programBlock; split <;> exact ⟨_, _, _, _, _, _, _, _, _, _, rfl⟩
    obtain ⟨b0, b1, b2, b3, b4, b5, b6, b7, b8, b9, h⟩ := this
    exact ⟨b0, b1, b2, b3, b4, b5, b6, b7, b8, b9, _, fun m => by rw [h]⟩

/-- The control code of a block about a track (R106). -/
theorem ctlOf_eq (p : Params) (e : Track) : ctlOf p e = if e.trackType = .data then p.ctrlData else p.ctrlAudio := by
  unfold ctlOf; cases e.trackType <;> rfl

/-- The CRC steps are iterations of one step (R166). -/
theorem crcSteps_eq (n : Nat) (c : U16) :
    crcSteps n c = (fun x : U16 => if x.getLsbD 15 then (x <<< 1) ^^^ 0x1021#16 else x <<< 1)^[n] c := by
  induction n generalizing c with
  | zero => rfl
  | succ n ih => exact ih _

end Sys2Proof.Machine
end

