-- ==== Sys2Proof/Laws/Latch.lean ====
section
/-! SUPPORT. Sys2Proof/Laws/Latch.lean: what the motion effects and a latch service can do. -/

namespace Sys2Proof.Machine

/-! ## Effects -/

/-- An effect changes the motion group and the SENS vector only. -/
theorem applyEffect_eq (s : State) (e : Effect) :
    s.applyEffect e = { s with
      motion := (s.applyEffect e).motion, cmd := { s.cmd with sens := (s.applyEffect e).cmd.sens } } := by
  cases e <;> rfl

/-- A list of effects changes the motion group and the SENS vector only. -/
theorem applyEffects_eq (s : State) (es : List Effect) :
    s.applyEffects es = { s with
      motion := (s.applyEffects es).motion, cmd := { s.cmd with sens := (s.applyEffects es).cmd.sens } } := by
  induction es generalizing s with
  | nil => rfl
  | cons e rest ih =>
    have h : s.applyEffects (e :: rest) = (s.applyEffect e).applyEffects rest := rfl
    rw [h, ih, applyEffect_eq]

/-- The effects do not read the command queue. -/
theorem applyEffects_cmdQueue (s : State) (es : List Effect) (q : List Byte) :
    ({ s with cmd := { s.cmd with cmdQueue := q } } : State).applyEffects es =
      { s.applyEffects es with cmd := { (s.applyEffects es).cmd with cmdQueue := q } } := by
  induction es generalizing s with
  | nil => rfl
  | cons e rest ih =>
    have h : ({ s with cmd := { s.cmd with cmdQueue := q } } : State).applyEffect e =
        { s.applyEffect e with cmd := { (s.applyEffect e).cmd with cmdQueue := q } } := by cases e <;> rfl
    exact (congrArg (State.applyEffects · rest) h).trans (ih _)

/-- What each effect of a list keeps, the list keeps. -/
theorem applyEffects_keeps {P : State → Prop} {es : List Effect} (h : ∀ s, ∀ e ∈ es, P s → P (s.applyEffect e)) (s : State)
    (hs : P s) : P (s.applyEffects es) := by
  induction es generalizing s with
  | nil => exact hs
  | cons e rest ih =>
    exact ih (fun s e he => h s e (List.mem_cons_of_mem _ he)) _ (h s e List.mem_cons_self hs)

/-! ## Latch service -/

/-- The effects `decodeLatch` gives are those of a row of its table. -/
theorem mem_decodeLatch {table : List LatchRow} {latch : BitVec 24} {v : View} {e : Effect}
    (h : e ∈ decodeLatch table latch v) : ∃ r ∈ table, e ∈ r.effects := by
  unfold decodeLatch at h
  split at h
  · rename_i r hr; exact ⟨r, List.mem_of_find?_eq_some hr, h⟩
  · cases h

/-- Servicing a byte changes the command and motion groups only, and not the queue. -/
theorem serviceByte_eq (s : State) (b : Byte) :
    s.serviceByte b = { s with
      motion := (s.serviceByte b).motion
      cmd := { latch := latchShift s.cmd.latch b, currentSens := b.extractLsb' 4 4, cmdQueue := s.cmd.cmdQueue
               sens := (s.serviceByte b).cmd.sens } } := by
  unfold State.serviceByte
  rw [applyEffects_eq]

@[simp] theorem serviceByte_params (s : State) (b : Byte) : (s.serviceByte b).params = s.params := by rw [serviceByte_eq]
@[simp] theorem serviceByte_latch (s : State) (b : Byte) : (s.serviceByte b).cmd.latch = latchShift s.cmd.latch b := by
  rw [serviceByte_eq]
@[simp] theorem serviceByte_currentSens (s : State) (b : Byte) : (s.serviceByte b).cmd.currentSens = b.extractLsb' 4 4 := by
  rw [serviceByte_eq]

/-- A latch service changes the command and motion groups only. -/
theorem serviceQueue_eq (s : State) (k : Option Nat) (q : List Byte) :
    s.serviceQueue k q = { s with cmd := (s.serviceQueue k q).cmd, motion := (s.serviceQueue k q).motion } := by
  induction q generalizing s k with
  | nil => rfl
  | cons b rest ih =>
    rcases k with _ | _ | k
    · rw [State.serviceQueue, ih, serviceByte_eq]
    · rfl
    · rw [State.serviceQueue, ih, serviceByte_eq]

/-- A latch service that meets no contention takes every byte. -/
theorem serviceQueue_free (s : State) (q : List Byte) :
    (s.serviceQueue none q).cmd.cmdQueue = [] ∧ (s.serviceQueue none q).cmd.latch = q.foldl latchShift s.cmd.latch ∧
      ∀ b, q.getLast? = some b → (s.serviceQueue none q).cmd.currentSens = b.extractLsb' 4 4 := by
  induction q generalizing s with
  | nil => exact ⟨rfl, rfl, by simp⟩
  | cons b rest ih =>
    obtain ⟨h1, h2, h3⟩ := ih (s.serviceByte b)
    refine ⟨h1, by rw [State.serviceQueue, h2, serviceByte_latch]; rfl, fun c hc => ?_⟩
    rcases rest with _ | ⟨d, rest⟩
    · obtain rfl : b = c := by simpa using hc
      exact serviceByte_currentSens s b
    · exact h3 c (by simpa [List.getLast?_cons_cons] using hc)

/-- A latch service whose attempt k meets contention takes the k bytes before it, and keeps or drops the byte met. -/
theorem serviceQueue_contended (s : State) (k : Nat) (q : List Byte) (hk : k < q.length) :
    (s.serviceQueue (some k) q).cmd.cmdQueue = (if s.params.lockDropOnContention then q.drop (k + 1) else q.drop k) ∧
      (s.serviceQueue (some k) q).cmd.latch = (q.take k).foldl latchShift s.cmd.latch := by
  induction q generalizing s k with
  | nil => simp at hk
  | cons b rest ih =>
    rcases k with _ | k
    · exact ⟨rfl, rfl⟩
    · obtain ⟨h1, h2⟩ := ih (s.serviceByte b) k (by simpa using hk)
      refine ⟨by rw [State.serviceQueue, h1, serviceByte_params]; rfl, ?_⟩
      rw [State.serviceQueue, h2, serviceByte_latch]; rfl

/-- What servicing a byte keeps, and what emptying or shortening the queue keeps, a latch service keeps. -/
theorem serviceQueue_keeps {P : State → Prop} (hq : ∀ s q, P s → P { s with cmd := { s.cmd with cmdQueue := q } })
    (hb : ∀ s b, P s → P (s.serviceByte b)) (s : State) (k : Option Nat) (q : List Byte) (hs : P s) :
    P (s.serviceQueue k q) := by
  induction q generalizing s k with
  | nil => exact hq s [] hs
  | cons b rest ih =>
    rcases k with _ | _ | k
    · exact ih _ _ (hb s b hs)
    · exact hq s _ hs
    · exact ih _ _ (hb s b hs)

/-- A lock that first fails after the queue's end fails nowhere. -/
theorem serviceQueue_enough (s : State) (k : Option Nat) (q : List Byte) (h : ∀ n, k = some n → q.length ≤ n) :
    s.serviceQueue k q = s.serviceQueue none q := by
  induction q generalizing s k with
  | nil => cases k <;> rfl
  | cons b r ih =>
    match k, h with
    | none, _ => rfl
    | some 0, h => exact absurd (h 0 rfl) (by simp)
    | some (n + 1), h =>
      refine ih _ _ fun m hm => ?_
      have := h (n + 1) rfl
      obtain rfl := Option.some.inj hm
      simpa using this

end Sys2Proof.Machine
end

