-- ==== Sys2Proof/Laws/Ctrl.lean ====
section
/-! SUPPORT. Sys2Proof/Laws/Ctrl.lean: what a branch body, the chain, the authentication generator and a CTRL event can change. -/

namespace Sys2Proof.Machine

/-! ## Branch bodies and the chain -/

theorem sledClick_eq (s : State) :
    s.sledClick = { s with motion := s.sledClick.motion, cmd := { s.cmd with sens := s.sledClick.cmd.sens } } := by
  unfold State.sledClick; split <;> rfl

/-- A branch body changes the position (not the logical track), CTRL's phase and motion state, the SENS vector and the diagnostic log. -/
theorem runBranch_eq (s : State) (b : Branch) :
    s.runBranch b = { s with
      pos := { (s.runBranch b).pos with currentLogicalTrack := s.pos.currentLogicalTrack }
      ctrlPhase := (s.runBranch b).ctrlPhase
      motion := (s.runBranch b).motion
      cmd := { s.cmd with sens := (s.runBranch b).cmd.sens }
      out := { s.out with diag := (s.runBranch b).out.diag } } := by
  cases b
  · rfl
  · simp only [State.runBranch, State.sled]
    split
    · rfl
    · rw [sledClick_eq]; rfl
  · simp only [State.runBranch, State.seekdone]
    split <;> rfl
  · simp only [State.runBranch, State.play]
    split <;> rfl
  · rfl

/-- From `Top` a branch body leaves CTRL in `Top`, in the settle delay or in the play delay. -/
theorem runBranch_ctrlPhase (s : State) (b : Branch) (h : s.ctrlPhase = .top) :
    (s.runBranch b).ctrlPhase = .top ∨ (∃ d, (s.runBranch b).ctrlPhase = .soctSettle d) ∨
      ∃ d, (s.runBranch b).ctrlPhase = .playDelay d := by
  cases b
  · exact .inr (.inl ⟨_, rfl⟩)
  · simp only [State.runBranch, State.sled]
    split
    · exact .inl h
    · rw [sledClick_eq]; exact .inl h
  · simp only [State.runBranch, State.seekdone]
    split <;> exact .inl h
  · simp only [State.runBranch, State.play]
    split
    · exact .inr (.inr ⟨_, rfl⟩)
    · exact .inl h
  · exact .inl h

/-- Completing a settle delay changes the position, CTRL's phase and motion state, and the diagnostic log. -/
theorem soctFinish_eq (s : State) :
    s.soctFinish = { s with
      pos := { s.soctFinish.pos with currentLogicalTrack := s.pos.currentLogicalTrack }
      ctrlPhase := .top
      motion := { s.motion with soctPending := false, soctEnabled := false }
      out := { s.out with diag := s.soctFinish.out.diag } } := rfl

/-- A transmission that answers a next state took the block of the sector at that moment. -/
theorem subqTx_next {s t : State} (h : s.subqTx = .next t) :
    ∃ r, subq s.params s.layout s.inputs.controlMode s.pos.sector.toInt = some r ∧
      t = { s.transmit r with ctrlPhase := .top } := by
  unfold State.subqTx at h
  split at h
  · rename_i r hr; exact ⟨r, hr, (Host.Outcome.next.inj h).symm⟩
  · cases h

/-! ## Authentication -/

/-- A check changes CTRL's phase and the authentication state. -/
theorem authCheck_eq (s : State) :
    s.authCheck = { s with ctrlPhase := s.authCheck.ctrlPhase, auth := s.authCheck.auth } := by
  unfold State.authCheck
  split
  · dsimp only; split <;> rfl
  · rfl

/-- A sequence step changes CTRL's phase and the authentication state. -/
theorem authStep_eq (s : State) :
    s.authStep = { s with ctrlPhase := s.authStep.ctrlPhase, auth := s.authStep.auth } := by
  unfold State.authStep
  split
  · rfl
  · split
    · rfl
    · unfold State.authBoundary
      split
      · rfl
      · split <;> rfl

/-! ## CTRL events -/

/-- What a CTRL operation, a latch service or an injected effect may change. -/
def ctrlFrame (s t : State) : Prop :=
  t = { s with
    pos := t.pos, ctrlPhase := t.ctrlPhase, motion := t.motion, subq := t.subq, cmd := t.cmd, auth := t.auth, old := t.old
    out := { s.out with diag := t.out.diag } }

theorem ctrlFrame_refl (s : State) : ctrlFrame s s := rfl

theorem ctrlFrame_trans {s t u : State} (h1 : ctrlFrame s t) (h2 : ctrlFrame t u) : ctrlFrame s u := by
  unfold ctrlFrame at *
  rw [h2, h1]

theorem ctrlFrame_begin (s : State) : ctrlFrame s s.beginIteration := rfl

theorem ctrlFrame_effects (s : State) (es : List Effect) : ctrlFrame s (s.applyEffects es) := by
  rw [applyEffects_eq]; rfl

theorem ctrlFrame_latch (s : State) : ctrlFrame s s.latchService := by
  rw [State.latchService, serviceQueue_eq]; rfl

theorem ctrlFrame_branch (s : State) (b : Branch) : ctrlFrame s (s.runBranch b) := by
  rw [runBranch_eq]; rfl

theorem ctrlFrame_soctFinish (s : State) : ctrlFrame s s.soctFinish := rfl

theorem ctrlFrame_check (s : State) : ctrlFrame s s.authCheck := by
  rw [authCheck_eq]; rfl

theorem ctrlFrame_authStep (s : State) : ctrlFrame s s.authStep := by
  rw [authStep_eq]; rfl

theorem ctrlFrame_transmit {s t : State} (h : s.subqTx = .next t) : ctrlFrame s t := by
  obtain ⟨r, -, rfl⟩ := subqTx_next h; rfl

theorem ctrlFrame_top (s : State) : ctrlFrame s s.topIteration := by
  have h := ctrlFrame_trans (ctrlFrame_latch s) (ctrlFrame_branch s.latchService s.latchService.branch)
  unfold State.topIteration
  dsimp only
  split
  · exact ctrlFrame_trans h (ctrlFrame_check _)
  · exact h

/-! ## The values a stale read may see -/

@[simp] theorem runBranch_old (s : State) (b : Branch) : (s.runBranch b).old = s.old := by rw [runBranch_eq]

@[simp] theorem chain_old (s : State) : s.chain.old = s.old := runBranch_old s s.branch

@[simp] theorem authCheck_old (s : State) : s.authCheck.old = s.old := by rw [authCheck_eq]

@[simp] theorem authStep_old (s : State) : s.authStep.old = s.old := by rw [authStep_eq]

@[simp] theorem latchService_old (s : State) : s.latchService.old = s.old := by rw [State.latchService, serviceQueue_eq]

@[simp] theorem topIteration_old (s : State) : s.topIteration.old = s.old := by
  unfold State.topIteration
  dsimp only
  split <;> simp

end Sys2Proof.Machine
end

