-- ==== Sys2Proof/Laws/Memory.lean ====
section
/-! SUPPORT. Sys2Proof/Laws/Memory.lean: the storage streams: read after write, and the canonical form that every write keeps. -/

namespace Sys2Proof.Machine

section Assoc

variable {α : Type}

theorem keysRise_cons (lo : Option Nat) (j : Nat) (y : α) (rest : List (Nat × α)) :
    keysRise lo ((j, y) :: rest) = true ↔ (∀ b, lo = some b → b < j) ∧ keysRise (some j) rest = true := by
  cases lo <;> simp [keysRise]

theorem keysRise_mono {a b : Nat} (h : a ≤ b) {l : List (Nat × α)} (hl : keysRise (some b) l = true) :
    keysRise (some a) l = true := by
  cases l with
  | nil => rfl
  | cons e rest =>
    obtain ⟨j, y⟩ := e
    simp only [keysRise_cons, Option.some.injEq, forall_eq'] at hl ⊢
    exact ⟨by omega, hl.2⟩

/-- Setting an entry keeps the keys rising. -/
theorem keysRise_assocSet (k : Nat) (v : Option α) (lo : Option Nat) (l : List (Nat × α))
    (hl : keysRise lo l = true) (hk : ∀ b, lo = some b → b < k) : keysRise lo (assocSet k v l) = true := by
  induction l generalizing lo with
  | nil =>
    cases v with
    | none => rfl
    | some x => simp only [assocSet, keysRise_cons]; exact ⟨hk, rfl⟩
  | cons e rest ih =>
    obtain ⟨j, y⟩ := e
    rw [keysRise_cons] at hl
    by_cases hjk : j < k
    · simp only [assocSet, hjk, if_true, keysRise_cons]
      exact ⟨hl.1, ih _ hl.2 (by rintro b ⟨⟩; exact hjk)⟩
    · by_cases heq : j = k
      · subst heq
        cases v with
        | none =>
          simp only [assocSet, lt_irrefl, if_false, if_true]
          cases lo with
          | none =>
            cases rest with
            | nil => rfl
            | cons e' r' =>
              obtain ⟨j', y'⟩ := e'
              simp only [keysRise_cons] at hl ⊢
              exact ⟨by rintro b ⟨⟩, hl.2.2⟩
          | some b => exact keysRise_mono (by have := hl.1 b rfl; omega) hl.2
        | some x => simp only [assocSet, lt_irrefl, if_false, if_true, keysRise_cons]; exact hl
      · have hkj : k < j := by omega
        cases v with
        | none => simp only [assocSet, hjk, heq, if_false, keysRise_cons]; exact hl
        | some x =>
          simp only [assocSet, hjk, heq, if_false, keysRise_cons]
          exact ⟨hk, by rintro b ⟨⟩; exact hkj, hl.2⟩

/-- Every entry after setting one is an old entry or the new one. -/
theorem mem_assocSet {k : Nat} {v : Option α} {l : List (Nat × α)} {e : Nat × α} (h : e ∈ assocSet k v l) :
    e ∈ l ∨ v = some e.2 ∧ e.1 = k := by
  induction l with
  | nil => cases v <;> simp_all [assocSet]
  | cons f rest ih =>
    obtain ⟨j, y⟩ := f
    by_cases hjk : j < k
    · simp only [assocSet, hjk, if_true, List.mem_cons] at h
      rcases h with h | h
      · exact .inl (by simp [h])
      · rcases ih h with h | h
        · exact .inl (by simp [h])
        · exact .inr h
    · by_cases heq : j = k
      · subst heq
        cases v <;> simp_all [assocSet]
        rcases h with rfl | h <;> simp_all
      · cases v with
        | none => simp only [assocSet, hjk, heq, if_false] at h; exact .inl h
        | some x =>
          simp only [assocSet, hjk, heq, if_false] at h
          rcases List.mem_cons.mp h with rfl | h
          · exact .inr ⟨rfl, rfl⟩
          · exact .inl h

theorem lookup_none_of_keysRise {k : Nat} {lo : Nat} (hlo : k ≤ lo) {l : List (Nat × α)}
    (hl : keysRise (some lo) l = true) : l.lookup k = none := by
  induction l generalizing lo with
  | nil => rfl
  | cons e rest ih =>
    obtain ⟨j, y⟩ := e
    simp only [keysRise_cons, Option.some.injEq, forall_eq'] at hl
    have hne : (k == j) = false := by simp; omega
    rw [List.lookup_cons, hne]
    exact ih (by omega) hl.2

/-- The entry set is the entry found. -/
theorem lookup_assocSet_self (k : Nat) (v : Option α) (lo : Option Nat) (l : List (Nat × α))
    (hl : keysRise lo l = true) : (assocSet k v l).lookup k = v := by
  induction l generalizing lo with
  | nil => cases v <;> simp [assocSet]
  | cons e rest ih =>
    obtain ⟨j, y⟩ := e
    rw [keysRise_cons] at hl
    by_cases hjk : j < k
    · have hne : (k == j) = false := by simp; omega
      simp only [assocSet, hjk, if_true, List.lookup_cons, hne]
      exact ih _ hl.2
    · cases v with
      | some x => simp [assocSet, hjk]
      | none =>
        by_cases heq : j = k
        · subst heq
          simp only [assocSet, lt_irrefl, if_false, if_true]
          exact lookup_none_of_keysRise (le_refl _) hl.2
        · have hne : (k == j) = false := by simp; omega
          simp only [assocSet, hjk, heq, if_false, List.lookup_cons, hne]
          exact lookup_none_of_keysRise (by omega : k ≤ j) hl.2

/-- Every other entry is found as before. -/
theorem lookup_assocSet_other {k a : Nat} (hne : a ≠ k) (v : Option α) (l : List (Nat × α)) :
    (assocSet k v l).lookup a = l.lookup a := by
  have hne' : (a == k) = false := by simp [hne]
  induction l with
  | nil => cases v <;> simp [assocSet, List.lookup_cons, hne']
  | cons e rest ih =>
    obtain ⟨j, y⟩ := e
    by_cases hjk : j < k
    · simp only [assocSet, hjk, if_true, List.lookup_cons, ih]
    · by_cases heq : j = k
      · subst heq
        cases v <;> simp [assocSet, List.lookup_cons, hne']
      · cases v <;> simp [assocSet, hjk, heq, List.lookup_cons, hne']

end Assoc

/-- A write to a stream keeps its canonical form. -/
theorem Memory.write_wf (m : Memory) (addr : Nat) (b : Byte) (h : m.wf = true) : (m.write addr b).wf = true := by
  simp only [Memory.wf, Bool.and_eq_true, List.all_eq_true, bne_iff_ne] at h ⊢
  refine ⟨keysRise_assocSet _ _ none _ h.1 (by simp), fun e he => ?_⟩
  rcases mem_assocSet he with he | ⟨hv, rfl⟩
  · exact h.2 e he
  · split at hv
    · cases hv
    · simp_all

/-- A write is read back. -/
theorem Memory.read_write_self (m : Memory) (addr : Nat) (b : Byte) (h : m.wf = true) : (m.write addr b).read addr = b := by
  simp only [Memory.wf, Bool.and_eq_true] at h
  rw [Memory.read, Memory.write, lookup_assocSet_self _ _ none _ h.1]
  split_ifs <;> simp_all

/-- A write leaves every other offset alone. -/
theorem Memory.read_write_other (m : Memory) {addr a : Nat} (b : Byte) (hne : a ≠ addr) :
    (m.write addr b).read a = m.read a := by
  simp only [Memory.read, Memory.write, lookup_assocSet_other hne]

theorem Storage.stream_wf (st : Storage) (h : Nat) (hw : st.wf = true) : (st.stream h).wf = true := by
  simp only [Storage.wf, Bool.and_eq_true, List.all_eq_true] at hw
  unfold Storage.stream
  split
  · rename_i m hm
    obtain ⟨l₁, l₂, heq, -⟩ := List.lookup_eq_some_iff.mp hm
    exact (hw.2 (h, m) (by simp [heq])).1
  · rfl

/-- A write to a stream keeps the canonical form of the streams. -/
theorem Storage.write_wf (st : Storage) (h addr : Nat) (b : Byte) (hw : st.wf = true) : (st.write h addr b).wf = true := by
  have hm := Memory.write_wf _ addr b (st.stream_wf h hw)
  simp only [Storage.wf, Bool.and_eq_true, List.all_eq_true] at hw ⊢
  refine ⟨keysRise_assocSet _ _ none _ hw.1 (by simp), fun e he => ?_⟩
  rcases mem_assocSet he with he | ⟨hv, rfl⟩
  · exact hw.2 e he
  · split at hv
    · cases hv
    · simp only [Option.some.injEq] at hv
      rw [← hv]
      exact ⟨hm, by simp_all⟩

theorem Storage.stream_write_self (st : Storage) (h addr : Nat) (b : Byte) (hw : st.wf = true) :
    (st.write h addr b).stream h = (st.stream h).write addr b := by
  simp only [Storage.wf, Bool.and_eq_true] at hw
  rw [Storage.stream, Storage.write, lookup_assocSet_self _ _ none _ hw.1]
  by_cases he : ((st.stream h).write addr b).isEmpty = true
  · simp [List.isEmpty_iff.mp he]
  · simp [he]

theorem Storage.stream_write_other (st : Storage) {h g : Nat} (addr : Nat) (b : Byte) (hne : g ≠ h) :
    (st.write h addr b).stream g = st.stream g := by
  simp only [Storage.stream, Storage.write, lookup_assocSet_other hne]

/-- A write to a stream is read back. -/
theorem Storage.read_write_self (st : Storage) (h addr : Nat) (b : Byte) (hw : st.wf = true) :
    (st.write h addr b).read h addr = b := by
  rw [Storage.read, st.stream_write_self h addr b hw, Memory.read_write_self _ _ _ (st.stream_wf h hw)]

/-- A write leaves every other offset of every stream alone. -/
theorem Storage.read_write_other (st : Storage) {h addr g a : Nat} (b : Byte) (hw : st.wf = true) (hne : (g, a) ≠ (h, addr)) :
    (st.write h addr b).read g a = st.read g a := by
  by_cases hg : g = h
  · subst hg
    have ha : a ≠ addr := by rintro rfl; exact hne rfl
    simp only [Storage.read, st.stream_write_self g addr b hw, Memory.read_write_other _ _ ha]
  · simp only [Storage.read, st.stream_write_other addr b hg]

/-- Reading a range gives as many bytes as asked for. -/
@[simp] theorem Storage.length_readRange (st : Storage) (h addr n : Nat) : (st.readRange h addr n).length = n := by
  simp [Storage.readRange]

end Sys2Proof.Machine
end

