-- ==== Sys2Proof/Laws/PerInstr.lean ====
section
/-! SUPPORT. Sys2Proof/Laws/PerInstr.lean: per constructor, the word the encoder gives has the fixed bits of its row of spec/opcode_table.json. -/

namespace Sys2Proof.Laws.RowWord

open Sys2Proof

/-- A row of spec/opcode_table.json: its width in bits, its match and its mask. -/
structure Row where
  nbits : Nat
  pattern : Nat
  mask  : Nat
deriving DecidableEq, Repr

/-- The row of an operation. -/
def rowOf : Instr → Row
  | .poweron => { nbits := 16, pattern := 0x0000, mask := 0xFFFF }
  | .envCmd _ => { nbits := 16, pattern := 0x0100, mask := 0xFF00 }
  | .envOverride _ => { nbits := 16, pattern := 0x0200, mask := 0xFFFE }
  | .envCtlmode _ => { nbits := 16, pattern := 0x0300, mask := 0xFFFC }
  | .envImage _ => { nbits := 16, pattern := 0x0400, mask := 0xFF00 }
  | .envDrained => { nbits := 16, pattern := 0x0500, mask := 0xFFFF }
  | .envSubqTaken => { nbits := 16, pattern := 0x0600, mask := 0xFFFF }
  | .envWclk _ => { nbits := 16, pattern := 0x0700, mask := 0xFFFE }
  | .ctrlIter => { nbits := 16, pattern := 0x1000, mask := 0xFFFF }
  | .ctrlLatch => { nbits := 16, pattern := 0x1100, mask := 0xFFFF }
  | .ctrlChain => { nbits := 16, pattern := 0x1200, mask := 0xFFFF }
  | .ctrlSoct => { nbits := 16, pattern := 0x1300, mask := 0xFFFF }
  | .ctrlSled => { nbits := 16, pattern := 0x1400, mask := 0xFFFF }
  | .ctrlSeekdone => { nbits := 16, pattern := 0x1500, mask := 0xFFFF }
  | .ctrlPlay => { nbits := 16, pattern := 0x1600, mask := 0xFFFF }
  | .ctrlAuthchk => { nbits := 16, pattern := 0x1700, mask := 0xFFFF }
  | .ctrlAuthstep => { nbits := 16, pattern := 0x1800, mask := 0xFFFF }
  | .strmPrepare => { nbits := 16, pattern := 0x2000, mask := 0xFFFF }
  | .strmSwap => { nbits := 16, pattern := 0x2100, mask := 0xFFFF }
  | .strmReload => { nbits := 16, pattern := 0x2200, mask := 0xFFFF }
  | .pLoad => { nbits := 16, pattern := 0x3000, mask := 0xFFFF }
  | .pTrackOf => { nbits := 16, pattern := 0x3100, mask := 0xFFFF }
  | .pIsData => { nbits := 16, pattern := 0x3200, mask := 0xFFFF }
  | .pMsf => { nbits := 16, pattern := 0x3300, mask := 0xFFFF }
  | .pBcd => { nbits := 16, pattern := 0x3400, mask := 0xFFFF }
  | .pSubq => { nbits := 16, pattern := 0x3500, mask := 0xFFFF }
  | .pCrc => { nbits := 16, pattern := 0x3600, mask := 0xFFFF }
  | .pPack => { nbits := 16, pattern := 0x3700, mask := 0xFFFF }
  | .pKeygen => { nbits := 16, pattern := 0x3800, mask := 0xFFFF }
  | .pScramble => { nbits := 16, pattern := 0x3900, mask := 0xFFFF }
  | .pCondition => { nbits := 16, pattern := 0x3A00, mask := 0xFFFF }
  | .pSectorOfTrack => { nbits := 16, pattern := 0x3B00, mask := 0xFFFF }
  | .pSectorsPerTrack => { nbits := 16, pattern := 0x3C00, mask := 0xFFFF }
  | .pLookup => { nbits := 16, pattern := 0x3D00, mask := 0xFFFF }
  | .xSled _ => { nbits := 16, pattern := 0x4000, mask := 0xFF00 }
  | .xSeek _ => { nbits := 16, pattern := 0x4100, mask := 0xFFFE }
  | .xMode _ => { nbits := 16, pattern := 0x4200, mask := 0xFFFE }
  | .xClicks _ => { nbits := 16, pattern := 0x4300, mask := 0xFF00 }
  | .xSoct => { nbits := 16, pattern := 0x4400, mask := 0xFFFF }
  | .xSens _ _ => { nbits := 16, pattern := 0x4500, mask := 0xFF0E }
  | .cmd8 _ => { nbits := 8, pattern := 0x00, mask := 0x00 }

/-- The width and the bits of a word. -/
def bitsOf : EventWord → Nat × Nat
  | .ev16 w => (16, w.toNat)
  | .cmd8 b => (8, b.toNat)

/-- The encoded word has its row's width and its row's fixed bits. -/
@[reducible] def Statement (i : Instr) : Prop :=
  (bitsOf (encode i)).1 = (rowOf i).nbits ∧ (bitsOf (encode i)).2 &&& (rowOf i).mask = (rowOf i).pattern

theorem poweron : Statement .poweron := by decide

theorem envCmd (b : Byte) : Statement (.envCmd b) := by
  revert b; decide

theorem envOverride (v : Bool) : Statement (.envOverride v) := by
  cases v <;> decide

theorem envCtlmode (m : ControlMode) : Statement (.envCtlmode m) := by
  cases m <;> decide

theorem envImage (n : Byte) : Statement (.envImage n) := by
  revert n; decide

theorem envDrained : Statement .envDrained := by decide

theorem envSubqTaken : Statement .envSubqTaken := by decide

theorem envWclk (v : Bool) : Statement (.envWclk v) := by
  cases v <;> decide

theorem ctrlIter : Statement .ctrlIter := by decide

theorem ctrlLatch : Statement .ctrlLatch := by decide

theorem ctrlChain : Statement .ctrlChain := by decide

theorem ctrlSoct : Statement .ctrlSoct := by decide

theorem ctrlSled : Statement .ctrlSled := by decide

theorem ctrlSeekdone : Statement .ctrlSeekdone := by decide

theorem ctrlPlay : Statement .ctrlPlay := by decide

theorem ctrlAuthchk : Statement .ctrlAuthchk := by decide

theorem ctrlAuthstep : Statement .ctrlAuthstep := by decide

theorem strmPrepare : Statement .strmPrepare := by decide

theorem strmSwap : Statement .strmSwap := by decide

theorem strmReload : Statement .strmReload := by decide

theorem pLoad : Statement .pLoad := by decide

theorem pTrackOf : Statement .pTrackOf := by decide

theorem pIsData : Statement .pIsData := by decide

theorem pMsf : Statement .pMsf := by decide

theorem pBcd : Statement .pBcd := by decide

theorem pSubq : Statement .pSubq := by decide

theorem pCrc : Statement .pCrc := by decide

theorem pPack : Statement .pPack := by decide

theorem pKeygen : Statement .pKeygen := by decide

theorem pScramble : Statement .pScramble := by decide

theorem pCondition : Statement .pCondition := by decide

theorem pSectorOfTrack : Statement .pSectorOfTrack := by decide

theorem pSectorsPerTrack : Statement .pSectorsPerTrack := by decide

theorem pLookup : Statement .pLookup := by decide

theorem xSled (d : SledDir) : Statement (.xSled d) := by
  cases d <;> decide

theorem xSeek (dir : SeekDir) : Statement (.xSeek dir) := by
  cases dir <;> decide

theorem xMode (m : SpeedMode) : Statement (.xMode m) := by
  cases m <;> decide

theorem xClicks (n : Byte) : Statement (.xClicks n) := by
  revert n; decide

theorem xSoct : Statement .xSoct := by decide

theorem xSens (q : BitVec 4) (v : Bool) : Statement (.xSens q v) := by
  revert q v; decide

theorem cmd8 (b : Byte) : Statement (.cmd8 b) := by
  revert b; decide

end Sys2Proof.Laws.RowWord
end

