-- ==== Sys2Proof/Laws/Streamer.lean ====
section
/-! SUPPORT. Sys2Proof/Laws/Streamer.lean: what a sector read, a fill, a lookup and PREPARE can do. -/

namespace Sys2Proof.Machine

/-! ## The key and the sample datapath -/

@[simp] theorem keyWords_length (n : Nat) (k : U16) : (keyWords n k).length = n := by
  induction n generalizing k with
  | zero => rfl
  | succ n ih => simp [keyWords, ih]

@[simp] theorem keygen_length (p : Params) : (keygen p).length = 1176 := by
  simp [keygen, Config.sectorWords]; omega

@[simp] theorem samplesOf_length (bs : List Byte) : (samplesOf bs).length = bs.length / 2 := by
  fun_induction samplesOf bs with
  | case1 lo hi rest ih => simp [ih]; omega
  | case2 => simp
  | case3 => simp

/-- Sample word i is bytes 2i + 1 and 2i (R73, R196). -/
theorem samplesOf_getElem? (bs : List Byte) (i : Nat) (lo hi : Byte) (hl : bs[2 * i]? = some lo) (hh : bs[2 * i + 1]? = some hi) :
    (samplesOf bs)[i]? = some (hi ++ lo) := by
  induction i generalizing bs with
  | zero =>
    match bs, hl, hh with
    | lo' :: hi' :: rest, hl, hh => simp_all [samplesOf]
  | succ i ih =>
    match bs, hl, hh with
    | lo' :: hi' :: rest, hl, hh => exact ih rest (by simpa [Nat.mul_add] using hl) (by simpa [Nat.mul_add] using hh)

/-! ## The sector's key -/

/-- KEYOF's value fits an `i32`, so an `i32` with R191's integer is the key. -/
theorem keyOf_eq {p : Params} (hp : p.Ok) {sector key : I32}
    (h : key.toInt = if sector.toInt < p.leadInSectors then sector.toInt.tmod p.preleadinKeyMod else sector.toInt) :
    keyOf p sector = key := by
  apply BitVec.eq_of_toInt_eq
  rw [h, keyOf]
  split
  · have h1 := hp.keyMod
    have h2 := hp.leadIn
    have h3 : (sector.toInt.tmod p.preleadinKeyMod).natAbs < p.preleadinKeyMod := by
      rw [Int.natAbs_tmod]; exact Nat.mod_lt _ (by omega)
    exact narrowI32_toInt ⟨by omega, by omega⟩
  · rfl

/-! ## Storage reads -/

@[simp] theorem silence_length : silence.length = 2352 := List.length_replicate

@[simp] theorem frame_length : Reset.frame.length = 1176 := List.length_replicate

theorem frame_getElem? {i : Nat} (hi : i < 1176) : Reset.frame[i]? = some 0#32 := by
  rw [Reset.frame, List.getElem?_replicate, if_pos hi]

@[simp] theorem readRange_length (st : Storage) (h addr n : Nat) : (st.readRange h addr n).length = n := by
  simp [Storage.readRange]

/-- A read gives 2352 bytes, whatever the storage answers. -/
theorem readSector_length (s : State) (stream : Option Nat) (offset : Nat) : (s.readSector stream offset).bytes.length = 2352 := by
  have h : Config.sectorBytes = 2352 := rfl
  unfold State.readSector
  split
  · exact silence_length
  · exact silence_length
  · simp only [List.length_append, readRange_length, List.length_replicate, h]; omega

/-- A sector read gives 2352 bytes, whatever the storage answers. -/
theorem sectorRead_length (s : State) (stream : Option Nat) (addr : Int) : (s.sectorRead stream addr).bytes.length = 2352 := by
  unfold State.sectorRead
  split
  · exact readSector_length s stream _
  · split
    · exact readSector_length s stream _
    · exact silence_length

/-! ## The cache -/

/-- The slot a lookup finds is valid and holds the key. -/
theorem lookup_some {cache : List Slot} {key : I32} {j : Nat} (h : lookup cache key = some j) :
    ∃ c, cache[j]? = some c ∧ c.valid = true ∧ c.key = key := by
  obtain ⟨hj, hc, -⟩ := List.findIdx?_eq_some_iff_getElem.mp h
  simp only [Bool.and_eq_true, beq_iff_eq] at hc
  exact ⟨cache[j], List.getElem?_eq_getElem hj, hc.1, hc.2⟩

/-- A key a lookup does not find is in no valid slot. -/
theorem lookup_none {cache : List Slot} {key : I32} (h : lookup cache key = none) :
    ∀ c ∈ cache, c.valid = true → c.key ≠ key := by
  intro c hc hv hk
  have := List.findIdx?_eq_none_iff.mp h c hc
  simp [hv, hk] at this

/-- A fill changes the streamer's cache and cursor, the diagnostic log and the list of storage requests. -/
theorem fill_eq (s : State) (key : I32) (t : Nat) :
    s.fill key t = { s with
      strm := { s.strm with cache := (s.fill key t).strm.cache, writeCursor := (s.fill key t).strm.writeCursor }
      out := { s.out with diag := (s.fill key t).out.diag, reads := (s.fill key t).out.reads } } := rfl

/-- Making a key resident changes what a fill changes. -/
theorem ensureCached_eq (s : State) (key : I32) (t : Nat) :
    (s.ensureCached key t).2 = { s with
      strm := { s.strm with
        cache := (s.ensureCached key t).2.strm.cache, writeCursor := (s.ensureCached key t).2.strm.writeCursor }
      out := { s.out with diag := (s.ensureCached key t).2.out.diag, reads := (s.ensureCached key t).2.out.reads } } := by
  unfold State.ensureCached
  split
  · rfl
  · exact fill_eq s key t

/-- After making a key resident, its slot is valid, holds it, and holds one sector. -/
theorem ensureCached_slot (s : State) (key : I32) (t : Nat) (hc : CacheOk s.strm) :
    ∃ c, (s.ensureCached key t).2.strm.cache[(s.ensureCached key t).1]? = some c ∧ c.valid = true ∧ c.key = key ∧
      c.buf.length = 1176 := by
  unfold State.ensureCached
  split
  · rename_i j hj
    obtain ⟨c, h1, h2, h3⟩ := lookup_some hj
    exact ⟨c, h1, h2, h3, hc.bufs c (List.mem_of_getElem? h1)⟩
  · refine ⟨filledSlot key (s.sectorRead (trackAt s.layout t).stream (missAddr key (trackAt s.layout t))).bytes, ?_, rfl, rfl, ?_⟩
    · have : s.strm.writeCursor.toNat < s.strm.cache.length := by rw [hc.slots]; exact hc.cursor
      simp [State.fill, this]
    · simp [filledSlot, sectorRead_length]

/-- PREPARE changes the streamer, the diagnostic log and the list of storage requests. -/
theorem prepare_eq (s : State) :
    s.prepare = { s with
      strm := s.prepare.strm, out := { s.out with diag := s.prepare.out.diag, reads := s.prepare.out.reads } } := by
  unfold State.prepare
  dsimp only
  rw [ensureCached_eq]

/-! ## Frames -/

/-- The words of a frame, one for each of the 1176 samples. -/
theorem frameWords_getElem? (s : State) (sector : I32) (t : Nat) (buf : List U16) (hb : buf.length = 1176)
    (hk : s.scrambleKey.length = 1176) {i : Nat} (hi : i < 1176) :
    (frameWords s sector t buf)[i]? = some
      (if sector.toInt < s.params.leadInSectors then 0#32
       else if (trackAt s.layout t).trackType = .data then condition (scramble s.scrambleKey (buf.getD i 0#16) i)
       else condition (buf.getD i 0#16)) := by
  have h1 : i < buf.length := by omega
  have h2 : i < s.scrambleKey.length := by omega
  unfold frameWords
  split
  · exact frame_getElem? hi
  · cases h : (trackAt s.layout t).trackType <;> simp [h1, h2, scramble]

theorem frameWords_length (s : State) (sector : I32) (t : Nat) (buf : List U16) (hb : buf.length = 1176)
    (hk : s.scrambleKey.length = 1176) : (frameWords s sector t buf).length = 1176 := by
  unfold frameWords
  split
  · exact frame_length
  · split <;> simp [hb, hk]

end Sys2Proof.Machine
end

