-- ==== Sys2Proof/Tests/Slice0.lean ====
section
/-! SUPPORT. Sys2Proof/Tests/Slice0.lean: the well-formedness smoke test, the decoder on words written out from R101, one or two steps per operation with the
values of 95_test_vectors.md, and for every statement with hypotheses a witness that meets them, clause by clause. -/

-- One theorem at a time: in parallel these kernel evaluations hold more memory than a check allows.
set_option Elab.async false

namespace Sys2Proof.Tests

open Sys2Proof Sys2Proof.Machine

/-! ## Well-formedness (R101: `X_CLICKS 0` is reserved) -/

theorem test_wellFormed_refuses_xClicks_zero : (Instr.xClicks 0#8).wellFormed = false := by decide

theorem test_wellFormed_takes_xClicks_one : (Instr.xClicks 1#8).wellFormed = true := by decide

/-! ## Decoding: words written out from the rows of R101, `{op[7:0], arg[7:0]}` (R100) -/

theorem test_decode_environment :
    decode (.ev16 0b0000000000000000#16) = .op .poweron ∧
    decode (.ev16 0b0000000110100101#16) = .op (.envCmd 0xA5#8) ∧
    decode (.ev16 0b0000001000000001#16) = .op (.envOverride true) ∧
    decode (.ev16 0b0000001100000011#16) = .op (.envCtlmode .peakMeter) ∧
    decode (.ev16 0b0000010011111111#16) = .op (.envImage 0xFF#8) ∧
    decode (.ev16 0b0000010100000000#16) = .op .envDrained ∧
    decode (.ev16 0b0000011000000000#16) = .op .envSubqTaken ∧
    decode (.ev16 0b0000011100000001#16) = .op (.envWclk true) := by decide

theorem test_decode_ctrl :
    decode (.ev16 0b0001000000000000#16) = .op .ctrlIter ∧ decode (.ev16 0b0001000100000000#16) = .op .ctrlLatch ∧
    decode (.ev16 0b0001001000000000#16) = .op .ctrlChain ∧ decode (.ev16 0b0001001100000000#16) = .op .ctrlSoct ∧
    decode (.ev16 0b0001010000000000#16) = .op .ctrlSled ∧ decode (.ev16 0b0001010100000000#16) = .op .ctrlSeekdone ∧
    decode (.ev16 0b0001011000000000#16) = .op .ctrlPlay ∧ decode (.ev16 0b0001011100000000#16) = .op .ctrlAuthchk ∧
    decode (.ev16 0b0001100000000000#16) = .op .ctrlAuthstep := by decide

theorem test_decode_strm :
    decode (.ev16 0b0010000000000000#16) = .op .strmPrepare ∧ decode (.ev16 0b0010000100000000#16) = .op .strmSwap ∧
    decode (.ev16 0b0010001000000000#16) = .op .strmReload := by decide

theorem test_decode_probes :
    decode (.ev16 0b0011000000000000#16) = .op .pLoad ∧ decode (.ev16 0b0011000100000000#16) = .op .pTrackOf ∧
    decode (.ev16 0b0011001000000000#16) = .op .pIsData ∧ decode (.ev16 0b0011001100000000#16) = .op .pMsf ∧
    decode (.ev16 0b0011010000000000#16) = .op .pBcd ∧ decode (.ev16 0b0011010100000000#16) = .op .pSubq ∧
    decode (.ev16 0b0011011000000000#16) = .op .pCrc ∧ decode (.ev16 0b0011011100000000#16) = .op .pPack ∧
    decode (.ev16 0b0011100000000000#16) = .op .pKeygen ∧ decode (.ev16 0b0011100100000000#16) = .op .pScramble ∧
    decode (.ev16 0b0011101000000000#16) = .op .pCondition ∧ decode (.ev16 0b0011101100000000#16) = .op .pSectorOfTrack ∧
    decode (.ev16 0b0011110000000000#16) = .op .pSectorsPerTrack ∧ decode (.ev16 0b0011110100000000#16) = .op .pLookup := by decide

theorem test_decode_effects :
    decode (.ev16 0b0100000000000001#16) = .op (.xSled .forward) ∧
    decode (.ev16 0b0100000100000001#16) = .op (.xSeek .reverse) ∧
    decode (.ev16 0b0100001000000001#16) = .op (.xMode .x2) ∧
    decode (.ev16 0b0100001111111111#16) = .op (.xClicks 0xFF#8) ∧
    decode (.ev16 0b0100010000000000#16) = .op .xSoct ∧
    decode (.ev16 0b0100010111110001#16) = .op (.xSens 15#4 true) := by decide

/-- R102: reserved operation codes and operands. -/
theorem test_decode_reserved :
    decode (.ev16 0x0001#16) = .reserved 0x00#8 0x01#8 ∧ decode (.ev16 0x0202#16) = .reserved 0x02#8 0x02#8 ∧
    decode (.ev16 0x0304#16) = .reserved 0x03#8 0x04#8 ∧ decode (.ev16 0x1900#16) = .reserved 0x19#8 0x00#8 ∧
    decode (.ev16 0x3E00#16) = .reserved 0x3E#8 0x00#8 ∧ decode (.ev16 0x4580#16) = .op (.xSens 8#4 false) ∧
    decode (.ev16 0x4588#16) = .reserved 0x45#8 0x88#8 ∧ decode (.ev16 0x4600#16) = .reserved 0x46#8 0x00#8 := by decide

/-! ## Small states -/

/-- A field of the next state. -/
def after {α : Type} (o : Host.Outcome State Fault Refusal) (f : State → α) : Option α :=
  match o with
  | .next t => some (f t)
  | .fault _ => none
  | .refused _ => none

/-- The last probe result of the next state. -/
def answered (o : Host.Outcome State Fault Refusal) : Option ProbeResult :=
  match after o (fun t => t.out.probeOut.getLast?) with
  | some r => r
  | none => none

/-- The reset state with operands for the next operation. -/
def withOperands (ops : List Int) : State := { State.reset with operands := ops }

/-- The reset state with a position, at a time. -/
def positioned (now : Time) (sector track update : I32) : State :=
  { State.reset with
    now := now
    pos := { State.reset.pos with sector := sector, track := track, sectorForTrackUpdate := update } }

/-- `positioned` with a motion state. -/
def moving (now : Time) (sector track update : I32) (m : Motion → Motion) : State :=
  { positioned now sector track update with motion := m State.reset.motion }

/-- The reset state with FOK set, so that the chain plays (R232). -/
def playing (sector track update : I32) (consumed : Bool) : State :=
  { positioned 0#64 sector track update with
    cmd := { State.reset.cmd with sens := 0x0001#16 }, subq := { State.reset.subq with consumed := consumed } }

/-- A CTRL phase, at a time. -/
def phased (now : Time) (c : CtrlPhase) : State := { State.reset with now := now, ctrlPhase := c }

/-- Disc A in the lead-in with FOK set: the authentication check qualifies 13,333 µs after time 0 (95_test_vectors.md program 4). -/
def qualifying (now : Time) (counter : U32) : State :=
  { positioned now 1#32 0#32 0#32 with
    cmd := { State.reset.cmd with sens := 0x0001#16 }
    layout := installed Config.simulation Config.discA
    auth := { State.reset.auth with counter := counter } }

/-- A running sequence at sector 1. -/
def sequencing (now : Time) (ph : AuthPhase) (override : Bool) : State :=
  { positioned now 1#32 0#32 0#32 with
    ctrlPhase := .auth
    auth := { State.reset.auth with phase := ph, line := false }
    inputs := { State.reset.inputs with overrideFlag := override } }

/-- A queue of command bytes, a lock draw, and a latch table. -/
def queued (q : List Byte) (k : Option Nat) (table : List LatchRow) : State :=
  { State.reset with
    cmd := { State.reset.cmd with cmdQueue := q }
    draws := { Draws.plain with lockContendedAt := k }
    params := { Config.simulation with decodeLatch := table } }

/-- A streamer phase with clock edges. -/
def streaming (ph : StrmPhase) (edges : BitVec 2) : State :=
  { State.reset with strm := { State.reset.strm with phase := ph, clockEdges := edges } }

/-- STRM at its prepare point for a sector, with one slot given, the rest invalid, and an iteration next in the trace. -/
def staged (sector : I32) (logical : Byte) (c : Slot) (drain : Bool) (idx : BitVec 1) : State :=
  { State.reset with
    now := 5000#64
    pos := { State.reset.pos with sector := sector, currentLogicalTrack := logical }
    strm := { State.reset.strm with cache := c :: List.replicate 49 Reset.slot, drainPending := drain, activeIdx := idx }
    trace := [plainLine 5000#64 (.ev16 0x1000#16)] }

/-- The reset state with one line next in its trace. -/
def traced (s : State) (w : EventWord) : State := { s with trace := [plainLine s.now w] }

/-! ## Steps, with the values of 95_test_vectors.md -/

/-- Section 9: the reset state, from power-off. -/
theorem test_poweron : after (exec .poweron (State.powerOff Config.simulation)) (fun t =>
    (t.ctrlPhase, t.strm.phase, t.layout.trackCount, t.layout.hasData, t.cmd.sens, t.auth.line)) =
    some (.top, .prepare, 2#8, true, 0x0000#16, true) := by decide

/-- Section 2.1: the lead-out of disc E. -/
theorem test_poweron_leadOut : after (exec .poweron (State.powerOff Config.simulation)) (fun t => trackAt t.layout 3) =
    some { trackType := .audio, index0 := 17650#32, index1 := 17650#32, fileOffset := 14650#32, size := 0#32, stream := some 1 } := by
  decide

theorem test_envCmd : after (exec (.envCmd 0x22#8) (queued [0x11#8] none [])) (fun t => t.cmd.cmdQueue) = some [0x11#8, 0x22#8] := by decide

theorem test_envOverride : after (exec (.envOverride true) State.reset) (fun t => t.inputs.overrideFlag) = some true := by decide

theorem test_envCtlmode : after (exec (.envCtlmode .levelMeter) State.reset) (fun t => t.inputs.controlMode) = some .levelMeter := by decide

theorem test_envImage : after (exec (.envImage 1#8) State.reset) (fun t => (t.inputs.imageIndex, t.old.imageIndex)) =
    some (1#32, 0#32) := by decide

/-- Section 8. -/
theorem test_envDrained_waiting : after (exec .envDrained (streaming .waitDrain 0#2)) (fun t => (t.strm.phase, t.strm.drainPending)) =
    some (.waitClock, false) := by decide

theorem test_envDrained_early : after (exec .envDrained State.reset) (fun t => (t.strm.phase, t.strm.drainPending)) =
    some (.prepare, true) := by decide

theorem test_envSubqTaken : after (exec .envSubqTaken (playing 0#32 0#32 0#32 false)) (fun t => (t.subq.consumed, t.out.subqOut)) =
    some (true, [{ w0 := 0#32, w1 := 0#32, w2 := 0#32 }]) := by decide

/-- Section 8: an edge is counted, a repeated level is not one. -/
theorem test_envWclk : after (exec (.envWclk true) (streaming .waitClock 1#2)) (fun t => (t.strm.clockEdges, t.strm.wclkLevel)) =
    some (2#2, true) := by decide

theorem test_envWclk_same : after (exec (.envWclk false) (streaming .waitClock 1#2)) (fun t => t.strm.clockEdges) = some 1#2 := by decide

/-- Program 2, the line at 100: the transmission of sector 1 ends the play delay. -/
theorem test_ctrlIter_transmits :
    after (exec .ctrlIter { playing 1#32 0#32 0#32 true with now := 100#64, ctrlPhase := .playDelay 100 })
      (fun t => (t.subq.lane.w0, t.subq.lane.w1, t.subq.lane.w2, t.subq.consumed, t.ctrlPhase)) =
    some (0x00010041#32, 0x00007459#32, 0xE76F0002#32, false, .top) := by decide +kernel

/-- Program 2, the first line: FOK set, the branch is a play advance. -/
theorem test_ctrlIter_plays : after (exec .ctrlIter (playing 0#32 0#32 0#32 true)) (fun t => (t.pos.sector, t.ctrlPhase)) =
    some (1#32, .playDelay 100) := by decide +kernel

/-- Section 6.3, the latch vectors. -/
theorem test_ctrlLatch : after (exec .ctrlLatch (queued [0x11#8, 0x22#8, 0x33#8, 0x05#8] none [])) (fun t => (t.cmd.latch, t.cmd.currentSens)) =
    some (0x053322#24, 0#4) := by decide

/-- R84: the lock fails at the second byte. -/
theorem test_ctrlLatch_contended : after (exec .ctrlLatch (queued [0x11#8, 0x22#8, 0x33#8] (some 1) [])) (fun t => (t.cmd.latch, t.cmd.cmdQueue)) =
    some (0x110000#24, [0x22#8, 0x33#8]) := by decide

/-- No guard holds (R232, program 1's last line). -/
theorem test_ctrlChain : after (exec .ctrlChain State.reset) (fun t => (t.pos, t.ctrlPhase)) = some (State.reset.pos, .top) := by decide

/-- Program 5: the settle delay begins, and ends. -/
theorem test_ctrlSoct_begin :
    after (exec .ctrlSoct (moving 20#64 0#32 0#32 0#32 (fun m => { m with soctPending := true }))) (fun t => t.ctrlPhase) =
    some (.soctSettle 120) := by decide

theorem test_ctrlSoct_finish :
    after (exec .ctrlSoct { moving 120#64 0#32 0#32 0#32 (fun m => { m with soctPending := true, soctEnabled := true }) with
      ctrlPhase := .soctSettle 120 }) (fun t => (t.motion.soctPending, t.motion.soctEnabled, t.ctrlPhase)) =
    some (false, false, .top) := by decide +kernel

/-- Section 6.3: one step forward from track 100. -/
theorem test_ctrlSled : after (exec .ctrlSled (moving 1000#64 938#32 100#32 938#32 (fun m => { m with sledDirection := .forward })))
    (fun t => (t.pos.track, t.pos.sector, t.pos.sectorForTrackUpdate, t.motion.clickAccum)) = some (101#32, 948#32, 948#32, 1#32) := by
  decide +kernel

/-- Section 6.3: at track 20892 CLAMP limits the track and the sector, and the click bit toggles at the second track. -/
theorem test_ctrlSled_top :
    after (exec .ctrlSled (moving 1000#64 332982#32 20892#32 332982#32 (fun m => { m with sledDirection := .forward, clickAccum := 1#32 })))
    (fun t => (t.pos.track, t.pos.sector, t.pos.sectorForTrackUpdate, t.cmd.sens)) = some (20892#32, 333000#32, 333005#32, 0x0002#16) := by
  decide +kernel

/-- Section 6.3: an autoseek to 100 completes at 1000. -/
theorem test_ctrlSeekdone :
    after (exec .ctrlSeekdone { moving 1000#64 0#32 0#32 0#32 (fun m => { m with autoseekActive := true, autoseekTarget := 100#32 }) with
      cmd := { State.reset.cmd with sens := 0x0004#16 } })
    (fun t => (t.pos.track, t.pos.sector, t.motion.autoseekActive, t.cmd.sens)) = some (100#32, 938#32, false, 0x0002#16) := by
  decide +kernel

/-- Section 6.3: a target of -5 completes at (0, 0, 0). -/
theorem test_ctrlSeekdone_negative :
    after (exec .ctrlSeekdone (moving 50#64 0#32 0#32 0#32 (fun m => { m with autoseekActive := true, autoseekTarget := -5#32 })))
    (fun t => (t.pos.track, t.pos.sector, t.pos.sectorForTrackUpdate, t.motion.autoseekActive)) = some (0#32, 0#32, 0#32, false) := by
  decide +kernel

/-- Section 6.3: the 9th play advance crosses to the next track. -/
theorem test_ctrlPlay : after (exec .ctrlPlay (playing 946#32 100#32 938#32 true)) (fun t => (t.pos.sector, t.pos.track, t.pos.sectorForTrackUpdate)) =
    some (947#32, 101#32, 947#32) := by decide +kernel

/-- R238's corner case: a target above TRACK_MAX lands at TRACK_MAX with the sector of `SOT(target)` limited, however far the target is. -/
theorem test_ctrlSeekdone_far :
    after (exec .ctrlSeekdone (moving 30000000000#64 0#32 0#32 0#32 (fun m => { m with autoseekActive := true, autoseekTarget := 0x7FFFFFFF#32 })))
    (fun t => (t.pos.track, t.pos.sector, t.motion.autoseekActive)) = some (20892#32, 333000#32, false) := by
  decide +kernel

/-- Section 6.3: at sector 333000 an advance leaves the sector there. -/
theorem test_ctrlPlay_top : after (exec .ctrlPlay (playing 333000#32 20892#32 333000#32 true)) (fun t => (t.pos.sector, t.pos.track)) =
    some (333000#32, 20892#32) := by decide +kernel

/-- Program 4: the 101st qualifying check fires. -/
theorem test_ctrlAuthchk : after (exec .ctrlAuthchk (qualifying 13333#64 100#32)) (fun t =>
    (t.ctrlPhase, t.auth.phase, t.auth.line, t.auth.counter, t.auth.lastCheck)) =
    some (.auth, .leadLow, false, 0#32, 13333#64) := by decide

theorem test_ctrlAuthchk_early : after (exec .ctrlAuthchk (qualifying 13332#64 5#32)) (fun t => t.auth.counter) = some 5#32 := by decide

/-- Section 7: bit 0 of repetition 0 is high at 90,000. -/
theorem test_ctrlAuthstep : after (exec .ctrlAuthstep (sequencing 90000#64 .leadLow false)) (fun t => (t.auth.phase, t.auth.line, t.auth.phaseStart)) =
    some (.bit 0 0, true, 90000#64) := by decide

/-- Section 7: the override aborts at the end of `Bit(0, 27)`, with the line low. -/
theorem test_ctrlAuthstep_abort : after (exec .ctrlAuthstep (sequencing 4000#64 (.bit 0 27) true)) (fun t => (t.auth.phase, t.auth.line, t.ctrlPhase)) =
    some (.idle, false, .top) := by decide

/-- Section 4.4: the frame words of sector 4651 of disc E. -/
theorem test_strmPrepare : after (exec .strmPrepare (staged 4651#32 1#8 Reset.slot false 0#1)) (fun t =>
    (t.strm.frame1.take 8, t.strm.frame1.drop 1174, t.strm.writeCursor, t.out.reads.length)) =
    some ([0x00313000#32, 0x00333200#32, 0x00353400#32, 0x00373600#32, 0x00393800#32, 0x003B3A00#32, 0x00BD3DFF#32, 0x005F3E00#32],
      [0x00802E00#32, 0x00C6BBFF#32], 1#8, 1) := by decide +kernel

/-- R204: a lead-in sector's frame is silent. -/
theorem test_strmPrepare_leadIn : after (exec .strmPrepare (staged 4321#32 1#8 Reset.slot true 0#1)) (fun t =>
    (t.strm.frame1.take 2, t.strm.phase, (t.strm.cache.getD 0 Reset.slot).key)) = some ([0#32, 0#32], .waitClock, 1#32) := by decide +kernel

theorem test_strmSwap : after (exec .strmSwap (streaming .waitClock 2#2)) (fun t => (t.strm.activeIdx, t.strm.phase, t.strm.clockEdges)) =
    some (1#1, .prepare, 0#2) := by decide

/-- R83, R205: with the selection back at 0, a stale check sees 1 and RELOAD's own read installs 0. -/
theorem test_strmReload_two_reads :
    after (exec .strmReload { State.reset with
        old := { State.reset.old with imageIndex := 1#32 }, draws := { Draws.plain with staleImage := true } })
      (fun t => (t.layout.trackCount, t.strm.loadedImage)) = some (2#8, 0#32) := by decide +kernel

/-- Program 6: disc A is installed and every slot is invalid. -/
theorem test_strmReload :
    after (exec .strmReload { staged 4651#32 1#8 { Reset.slot with valid := true } false 1#1 with inputs := { State.reset.inputs with imageIndex := 1#32 } })
      (fun t => (t.layout.trackCount, t.layout.hasData, t.strm.cache.any (fun c => c.valid), t.strm.loadedImage, t.strm.activeIdx)) =
    some (1#8, false, false, 1#32, 0#1) := by decide +kernel

/-- Section 2.1: a description with no track entries is `Err(Malformed)`. -/
theorem test_pLoad : answered (exec .pLoad State.reset) = some (.layout .errMalformed) := by decide

/-- Section 2.1: disc E from its numbers on a text line. -/
theorem test_pLoad_line :
    after (step { State.reset with
        trace := (traceLines 0#64 "P_LOAD" [0, 1, 4500, 4650, 4650, 10000, 0, 0, 14650, 14800, 14650, 2850, 1]).getD [] })
      (fun t => t.out.probeOut) = some [.layout (.ok
        { tracks := Config.discE.entries ++
            [{ trackType := .audio, index0 := 17650#32, index1 := 17650#32, fileOffset := 14650#32, size := 0#32, stream := some 1 }]
          trackCount := 2#8
          hasData := true })] := by decide +kernel

/-- R114: 2 is no track type. -/
theorem test_pLoad_refused : exec .pLoad (withOperands [2, 0, 0, 0, 0, 0]) = .refused .badOperands := by rfl

theorem test_pTrackOf : answered (exec .pTrackOf (withOperands [14650])) = some (.track 2) := by decide +kernel

theorem test_pTrackOf_leadOut : answered (exec .pTrackOf (withOperands [333000])) = some (.track 3) := by decide +kernel

theorem test_pIsData : answered (exec .pIsData (withOperands [1])) = some (.bool true) := by decide

theorem test_pIsData_refused : exec .pIsData (withOperands [4]) = .refused .trackOutOfRange := by rfl

theorem test_pMsf : answered (exec .pMsf (withOperands [4499])) = some (.msf { mm := 0, ss := 59, ff := 74 }) := by decide +kernel

theorem test_pMsf_negative : answered (exec .pMsf (withOperands [-4500])) = some (.msf { mm := 1, ss := 0, ff := 0 }) := by decide +kernel

theorem test_pBcd : answered (exec .pBcd (withOperands [59])) = some (.byte 0x59#8) := by decide +kernel

theorem test_pBcd_top : answered (exec .pBcd (withOperands [100])) = some (.byte 0x99#8) := by decide +kernel

/-- Section 3.2, sector 4650. -/
theorem test_pSubq : answered (exec .pSubq (withOperands [4650])) = some (.block
    { raw := [0x41#8, 0x01#8, 0x01#8, 0x00#8, 0x00#8, 0x00#8, 0x00#8, 0x00#8, 0x02#8, 0x00#8, 0x28#8, 0x32#8], lookup := some 1 }) := by
  decide +kernel

/-- R160: the lead-out of a disc of one track and no sectors, in the pre-gap it begins in. -/
theorem test_programBlock_short : (programBlock Config.simulation
      (layoutOf [{ trackType := .audio, index0 := 4500#32, index1 := 4500#32, fileOffset := 4500#32, size := 0#32, stream := some 0 }]) 4501 2).take 6 =
    [0x01#8, 0xAA#8, 0x01#8, 0x00#8, 0x00#8, 0x01#8] := by decide +kernel

/-- Section 3.2, sector 13, point A2. -/
theorem test_pSubq_leadIn : answered (exec .pSubq (withOperands [13])) = some (.block
    { raw := [0x01#8, 0x00#8, 0xA2#8, 0x00#8, 0x59#8, 0x62#8, 0x00#8, 0x02#8, 0x55#8, 0x25#8, 0x17#8, 0x31#8], lookup := none }) := by
  decide +kernel

/-- Row 0xF8 of the table of R166. -/
theorem test_crcTable : (crcTable.drop 248) =
    [0x6E17#16, 0x7E36#16, 0x4E55#16, 0x5E74#16, 0x2E93#16, 0x3EB2#16, 0x0ED1#16, 0x1EF0#16] := by decide +kernel

/-- Section 3.1. -/
theorem test_pCrc : answered (exec .pCrc (withOperands [0x41, 0x01, 0x01, 0, 0, 0, 0, 0, 0x02, 0])) = some (.crc 0x2832#16) := by decide +kernel

theorem test_pPack : answered (exec .pPack (withOperands [0x41, 0, 0x01, 0x01, 0, 0, 0, 0, 0x02, 0, 0x7B, 0x70])) =
    some (.lane { w0 := 0x01010041#32, w1 := 0x00000000#32, w2 := 0x707B0002#32 }) := by decide

/-- Section 4.1. -/
theorem test_pKeygen : (match answered (exec .pKeygen State.reset) with
    | some (.key k) => (k.take 10, k.drop 1174)
    | _ => ([], [])) =
    ([0x0000#16, 0x0000#16, 0x0000#16, 0x0000#16, 0x0000#16, 0x0000#16, 0x8001#16, 0x6000#16, 0x2800#16, 0x1E00#16],
      [0xDD72#16, 0x99E5#16]) := by decide +kernel

theorem test_pScramble : answered (exec .pScramble (withOperands [0x1234, 6])) = some (.sample 0x9235#16) := by decide +kernel

theorem test_pScramble_refused : exec .pScramble (withOperands [0, 1176]) = .refused .keyIndexOutOfRange := by rfl

theorem test_pCondition : answered (exec .pCondition (withOperands [0x8001])) = some (.laneWord 0x008001FF#32) := by decide +kernel

theorem test_pSectorOfTrack : answered (exec .pSectorOfTrack (withOperands [20893])) = some (.i32 333005#32) := by decide +kernel

theorem test_pSectorOfTrack_negative : answered (exec .pSectorOfTrack (withOperands [-1])) = some (.i32 (-9#32)) := by decide +kernel

theorem test_pSectorsPerTrack : answered (exec .pSectorsPerTrack (withOperands [812])) = some (.i32 10#32) := by decide +kernel

theorem test_pSectorsPerTrack_below : answered (exec .pSectorsPerTrack (withOperands [811])) = some (.i32 9#32) := by decide +kernel

theorem test_pLookup : answered (exec .pLookup { staged 0#32 1#8 { Reset.slot with valid := true, key := 4651#32 } false 0#1 with operands := [4651] }) =
    some (.slot (some 0)) := by decide +kernel

theorem test_pLookup_miss : answered (exec .pLookup (withOperands [0])) = some (.slot none) := by decide +kernel

theorem test_xSled : after (exec (.xSled .reverse) State.reset) (fun t => t.motion.sledDirection) = some .reverse := by decide

/-- Program 1: XBUSY is set. -/
theorem test_xSeek : after (exec (.xSeek .forward) (withOperands [100])) (fun t => (t.motion.autoseekActive, t.motion.autoseekTarget, t.cmd.sens)) =
    some (true, 100#32, 0x0004#16) := by decide

theorem test_xMode : after (exec (.xMode .x2) State.reset) (fun t => t.motion.mode) = some .x2 := by decide

theorem test_xClicks : after (exec (.xClicks 7#8) State.reset) (fun t => t.motion.tracksPerClick) = some 7#32 := by decide

theorem test_xSoct : after (exec .xSoct State.reset) (fun t => (t.motion.soctPending, t.motion.soctEnabled)) = some (true, true) := by decide

/-- Program 5. -/
theorem test_xSens : after (exec (.xSens 3#4 true) State.reset) (fun t => t.cmd.sens) = some 0x0008#16 := by decide

theorem test_cmd8 : after (exec (.cmd8 0x05#8) (queued [0x11#8, 0x22#8, 0x33#8] none [])) (fun t => (t.cmd.latch, t.cmd.currentSens)) =
    some (0x053322#24, 0#4) := by decide

theorem test_cmd8_blocked : after (exec (.cmd8 0x05#8) (phased 0#64 (.playDelay 100))) (fun t => (t.cmd.latch, t.cmd.cmdQueue)) =
    some (0x000000#24, [0x05#8]) := by decide

/-- A trace of drain reports at the given times, a mode change before the last of them. -/
def drains (times : List Time) (last : Time) : State :=
  { State.reset with
    trace := times.map (fun t => { plainLine t (encode .envDrained) with time := t }) ++
      [plainLine last (encode (.xMode .x2)), plainLine last (encode .envDrained), plainLine (last + 6667#64) (encode .envDrained)] }

/-- R311: 40000/3 µs apart at 1x and 20000/3 µs at 2x, in whole microseconds; two microseconds late is not well-timed. -/
theorem test_wellTimed : (drains [0#64, 13333#64] 26666#64).wellTimed = true ∧ (drains [0#64, 13333#64] 26668#64).wellTimed = false := by
  decide +kernel

/-- R315: the k-th frame with the k-th group. -/
theorem test_multiplex :
    ({ dataOut := [[1#32], [2#32]], subqOut := [{ w0 := 3#32, w1 := 4#32, w2 := 5#32 }], probeOut := [], diag := [], reads := [] } : Outputs).multiplex =
    [([1#32], { w0 := 3#32, w1 := 4#32, w2 := 5#32 })] := by decide

/-- A step takes the line and its time. -/
theorem test_step : after (step { traced State.reset (.ev16 0x4001#16) with now := 0#64 }) (fun t => (t.motion.sledDirection, t.trace)) =
    some (.forward, []) := by decide

/-- The word placed runs as the next operation. -/
theorem test_withFetchWord : after (step (State.reset.withFetchWord 16 0x3200)) (fun t => t.out.probeOut) = some [.bool true] := by decide

/-! ## Witnesses: for each statement with hypotheses, states and operands that meet them, clause by clause -/

theorem witness_PoweronSetsEveryElement : State.reset.draws.mountOk = true := by decide

/-- A state whose mount draw fails. -/
def unmountable : State := { State.reset with draws := { Draws.plain with mountOk := false } }

theorem witness_MountFailureHalts : unmountable.draws.mountOk = false := by decide

/-- A halted state. -/
def haltedState : State := { withOperands [100] with halted := true, haltCause := .mountFailure, ctrlPhase := .startup }

theorem witness_HaltedAgentsChangeNothing :
    haltedState.halted = true ∧ (opClass .ctrlIter = .ctrl ∧ opClass .strmSwap = .strm ∧ opClass (.xClicks 1#8) = .effect) ∧
    (Instr.xClicks 1#8).wellFormed = true ∧ i32Operand haltedState.operands = some 100#32 := by decide

theorem witness_OnlyPoweronTouchesHalt :
    (∃ t, step State.reset = .next t) ∧ (∃ t, step (traced State.reset (.ev16 0x0000#16)) = .next t) := ⟨⟨_, rfl⟩, ⟨_, rfl⟩⟩

theorem witness_EventsBeforePoweronRefused :
    (State.powerOff Config.simulation).poweredOn = false ∧ decode (.ev16 0x1000#16) = .op .ctrlIter ∧ decode (.ev16 0x0000#16) = .op .poweron ∧
    (traced (State.powerOff Config.simulation) (.ev16 0x1000#16)).now ≤ (plainLine 0#64 (.ev16 0x1000#16)).time ∧
    Instr.ctrlIter ≠ .poweron := by decide

theorem witness_StepRunsTheDecodedOperation :
    (traced State.reset (.ev16 0x4001#16)).trace = [plainLine 0#64 (.ev16 0x4001#16)] ∧
    State.reset.now ≤ (plainLine 0#64 (.ev16 0x4001#16)).time ∧
    decode (plainLine 0#64 (.ev16 0x4001#16)).word = .op (.xSled .forward) ∧ State.reset.poweredOn = true := by decide

theorem witness_ReservedWordRefused :
    (traced State.reset (.ev16 0x4003#16)).trace = [plainLine 0#64 (.ev16 0x4003#16)] ∧
    State.reset.now ≤ (plainLine 0#64 (.ev16 0x4003#16)).time ∧
    decode (plainLine 0#64 (.ev16 0x4003#16)).word = .reserved 0x40#8 0x03#8 := by decide

theorem witness_DecodeOfEncode : (Instr.xClicks 255#8).wellFormed = true ∧ (Instr.xSens 15#4 true).wellFormed = true := by decide

theorem witness_DrainReport : (streaming .waitDrain 0#2).strm.phase = .waitDrain ∧ State.reset.strm.phase ≠ .waitDrain := by decide

theorem witness_WordClockTransition :
    (false = (streaming .waitClock 0#2).strm.wclkLevel) ∧ (true ≠ (streaming .waitClock 0#2).strm.wclkLevel) ∧
    ((streaming .waitClock 0#2).strm.clockEdges.toNat < 2) ∧ ((streaming .waitClock 1#2).strm.clockEdges.toNat < 2) ∧
    (2 ≤ (streaming .waitClock 2#2).strm.clockEdges.toNat) ∧ ((streaming .prepare 0#2).strm.phase ≠ .waitClock) := by decide

theorem witness_InjectedEffects :
    State.reset.halted = false ∧ i32Operand (withOperands [-2147483648]).operands = some 0x80000000#32 ∧
    i32Operand (withOperands [2147483647]).operands = some 0x7FFFFFFF#32 ∧ (1#8 ≠ 0#8) ∧ (255#8 ≠ 0#8) := by decide

theorem witness_SensWriteOnlyChangesFocus :
    State.reset.halted = false ∧
    State.reset.params.Ok ∧ (∃ t, exec .ctrlChain State.reset = .next t) ∧ Instr.ctrlChain ≠ .poweron ∧
    (∀ q v, Instr.ctrlChain ≠ .xSens q v) ∧
    (∀ r ∈ State.reset.params.decodeLatch, ∀ v, .sensWrite State.reset.params.sensFok v ∉ r.effects) :=
  ⟨rfl, simulation_ok, ⟨_, rfl⟩, by simp, by simp, fun r hr => by cases hr⟩

theorem witness_LatchServiceTakesEveryByte :
    (queued [0x11#8, 0x22#8] none []).halted = false ∧ (queued [0x11#8, 0x22#8] none []).ctrlPhase = .top ∧
    (∀ k, (queued [0x11#8, 0x22#8] none []).draws.lockContendedAt = some k → (queued [0x11#8, 0x22#8] none []).cmd.cmdQueue.length ≤ k) ∧
    (∀ k, (queued [0x11#8, 0x22#8] (some 2) []).draws.lockContendedAt = some k → (queued [0x11#8, 0x22#8] (some 2) []).cmd.cmdQueue.length ≤ k) ∧
    (queued [0x11#8, 0x22#8] none []).cmd.cmdQueue.getLast? = some 0x22#8 ∧ (queued [] none []).cmd.cmdQueue = [] :=
  ⟨rfl, rfl, fun _ h => by (cases h), fun _ h => by (cases h; decide), rfl, rfl⟩

theorem witness_ContendedLockSkipsTheRest :
    (queued [0x11#8, 0x22#8] (some 0) []).halted = false ∧ (queued [0x11#8, 0x22#8] (some 0) []).ctrlPhase = .top ∧
    (queued [0x11#8, 0x22#8] (some 0) []).draws.lockContendedAt = some 0 ∧ 0 < (queued [0x11#8, 0x22#8] (some 0) []).cmd.cmdQueue.length ∧
    (queued [0x11#8, 0x22#8] (some 1) []).draws.lockContendedAt = some 1 ∧ 1 < (queued [0x11#8, 0x22#8] (some 1) []).cmd.cmdQueue.length := by
  decide

/-- A latch table with one row, for the latch 0x050000. -/
def oneRow (es : List Effect) : State :=
  { queued [0x05#8] none [{ latch := 0x050000#24, view := none, effects := es }] with operands := [100] }

/-- The state its byte's latch shift leaves. -/
def shifted (es : List Effect) : State :=
  { oneRow es with cmd := { (oneRow es).cmd with
      latch := ((oneRow es).cmd.latch >>> 8) ||| ((0x05#8).setWidth 24 <<< 16), currentSens := (0x05#8).extractLsb' 4 4, cmdQueue := [] } }

theorem witness_LatchEffectsActAsInjected (es : List Effect) :
    (oneRow es).halted = false ∧ (oneRow es).ctrlPhase = .top ∧ (oneRow es).draws.lockContendedAt = none ∧
    (oneRow es).cmd.cmdQueue = [0x05#8] ∧ i32Operand (oneRow es).operands = some 100#32 ∧
    shifted es = { oneRow es with cmd := { (oneRow es).cmd with
        latch := ((oneRow es).cmd.latch >>> 8) ||| ((0x05#8).setWidth 24 <<< 16), currentSens := (0x05#8).extractLsb' 4 4, cmdQueue := [] } } ∧
    decodeLatch (oneRow es).params.decodeLatch (shifted es).cmd.latch (shifted es).view = es :=
  ⟨rfl, rfl, rfl, rfl, by simp only [oneRow]; decide, rfl, by
    have h : (shifted es).cmd.latch = 0x050000#24 := by show ((0#24 >>> 8) ||| ((0x05#8).setWidth 24 <<< 16)) = _; decide
    rw [h]; simp [decodeLatch, oneRow, queued, rowCovers]⟩

theorem witness_CommandByteEntersTheLatch :
    State.reset.halted = false ∧ State.reset.ctrlPhase = .top ∧ State.reset.cmd.cmdQueue = [] ∧ State.reset.draws.lockContendedAt ≠ some 0 := by
  decide

theorem witness_CtrlEventsComplete : opClass .ctrlIter = .ctrl ∧ 0 ≤ State.reset.pos.sector.toInt := by decide

theorem witness_IterationIsItsParts :
    haltedState.halted = true ∧ (phased 120#64 .top).halted = false ∧ (phased 120#64 .top).ctrlPhase = .top ∧
    ((phased 120#64 (.soctSettle 120)).ctrlPhase = .soctSettle 120 ∧ 120 ≤ (phased 120#64 (.soctSettle 120)).now.toNat) ∧
    ((phased 120#64 (.playDelay 120)).ctrlPhase = .playDelay 120 ∧ 120 ≤ (phased 120#64 (.playDelay 120)).now.toNat) ∧
    (phased 119#64 (.playDelay 120)).now.toNat < 120 ∧ (sequencing 0#64 .leadLow false).ctrlPhase = .auth ∧
    (phased 0#64 .startup).ctrlPhase = .startup := by decide

theorem witness_ChainPriority :
    State.reset.halted = false ∧ State.reset.ctrlPhase = .top ∧
    (moving 0#64 0#32 0#32 0#32 (fun m => { m with soctPending := true, sledDirection := .forward })).motion.soctPending = true ∧
    (moving 0#64 0#32 0#32 0#32 (fun m => { m with sledDirection := .reverse, autoseekActive := true })).motion.sledDirection ≠ .stop ∧
    (moving 0#64 0#32 0#32 0#32 (fun m => { m with autoseekActive := true })).motion.autoseekActive = true ∧
    (sensBit (playing 0#32 0#32 0#32 true).cmd.sens Config.simulation.sensFok = true ∧ (playing 0#32 0#32 0#32 true).motion.autoseekActive = false) ∧
    (sensBit State.reset.cmd.sens State.reset.params.sensFok = false ∧ State.reset.motion.soctPending = false ∧
      State.reset.motion.sledDirection = .stop) ∧
    ((phased 0#64 (.playDelay 1)).ctrlPhase ≠ .top ∧ ∀ d, (phased 0#64 (.playDelay 1)).ctrlPhase ≠ .soctSettle d) ∧
    ((phased 0#64 .auth).ctrlPhase ≠ .top ∧ ∀ d, (phased 0#64 .auth).ctrlPhase ≠ .playDelay d) :=
  ⟨by decide, by decide, by decide, by decide, by decide, by decide, by decide, ⟨by decide, fun _ h => by cases h⟩, ⟨by decide, fun _ h => by cases h⟩⟩

/-- A pending SOCT request, in a phase. -/
def settling (now : Time) (c : CtrlPhase) : State :=
  { moving now 333000#32 20892#32 0#32 (fun m => { m with soctPending := true, soctEnabled := true }) with ctrlPhase := c }

theorem witness_SoctService :
    (settling 120#64 .top).params.Ok ∧
    ((settling 120#64 .top).halted = false ∧ (settling 120#64 .top).ctrlPhase = .top ∧ (settling 120#64 .top).motion.soctPending = true) ∧
    ((settling 119#64 (.soctSettle 120)).ctrlPhase = .soctSettle 120 ∧ (settling 119#64 (.soctSettle 120)).now.toNat < 120) ∧
    120 ≤ (settling 120#64 (.soctSettle 120)).now.toNat ∧
    PositionOk (settling 120#64 (.soctSettle 120)).params (settling 120#64 (.soctSettle 120)).pos :=
  ⟨simulation_ok, by decide, by decide, by decide, ⟨by decide, by decide, by decide⟩⟩

/-- A moving sled. -/
def sledding (now : Time) (d : SledDir) (accum : U32) : State :=
  moving now 938#32 100#32 938#32 (fun m => { m with sledDirection := d, clickAccum := accum })

theorem witness_SledStep :
    (sledding 999#64 .forward 0#32).params.Ok ∧
    ((sledding 999#64 .forward 0#32).halted = false ∧ (sledding 999#64 .forward 0#32).ctrlPhase = .top ∧
      (sledding 999#64 .forward 0#32).motion.soctPending = false ∧ (sledding 999#64 .forward 0#32).motion.sledDirection ≠ .stop ∧
      ((sledding 999#64 .forward 0#32).now - (sledding 999#64 .forward 0#32).motion.lastMotionTime).toNat < 1000) ∧
    ((sledding 1000#64 .reverse 1#32).motion.sledDirection ≠ .stop ∧
      1000 ≤ ((sledding 1000#64 .reverse 1#32).now - (sledding 1000#64 .reverse 1#32).motion.lastMotionTime).toNat ∧
      (sledding 1000#64 .reverse 1#32).motion.tracksPerClick ≤ (sledding 1000#64 .reverse 1#32).motion.clickAccum + 1#32 ∧
      (sledding 1000#64 .forward 0#32).motion.clickAccum + 1#32 < (sledding 1000#64 .forward 0#32).motion.tracksPerClick) :=
  ⟨simulation_ok, by decide, by decide⟩

/-- An active autoseek from track 0 to track 100. -/
def seeking (now : Time) : State := moving now 0#32 0#32 0#32 (fun m => { m with autoseekActive := true, autoseekTarget := 100#32 })

theorem witness_SeekCompletion :
    (seeking 999#64).params.Ok ∧
    ((seeking 999#64).halted = false ∧ (seeking 999#64).ctrlPhase = .top ∧ (seeking 999#64).motion.soctPending = false ∧
      (seeking 999#64).motion.sledDirection = .stop ∧ (seeking 999#64).motion.autoseekActive = true ∧
      ((seeking 999#64).now - (seeking 999#64).motion.autoseekStart).toNat
        < ((seeking 999#64).motion.autoseekTarget.toInt - (seeking 999#64).pos.track.toInt).natAbs * (seeking 999#64).params.autoseekPerTrackUs) ∧
    ((seeking 1000#64).motion.autoseekTarget.toInt - (seeking 1000#64).pos.track.toInt).natAbs * (seeking 1000#64).params.autoseekPerTrackUs
        ≤ ((seeking 1000#64).now - (seeking 1000#64).motion.autoseekStart).toNat := ⟨simulation_ok, by decide, by decide⟩

theorem witness_PlayAdvance :
    (playing 945#32 100#32 938#32 true).params.Ok ∧
    ((playing 945#32 100#32 938#32 true).halted = false ∧ (playing 945#32 100#32 938#32 true).ctrlPhase = .top ∧
      (playing 945#32 100#32 938#32 true).motion.soctPending = false ∧ (playing 945#32 100#32 938#32 true).motion.sledDirection = .stop ∧
      (playing 945#32 100#32 938#32 true).motion.autoseekActive = false ∧
      sensBit (playing 945#32 100#32 938#32 true).cmd.sens (playing 945#32 100#32 938#32 true).params.sensFok = true) ∧
    (playing 945#32 100#32 938#32 false).subq.consumed = false ∧ (playing 945#32 100#32 938#32 true).subq.consumed = true ∧
    (945 + 1 - 938 < sectorsPerTrackInt 100) ∧ (sectorsPerTrackInt 100 ≤ 946 + 1 - 938) :=
  ⟨simulation_ok, by decide, by decide, by decide, by decide +kernel, by decide +kernel⟩

theorem witness_SubchannelTransmission :
    (phased 99#64 (.playDelay 100)).halted = false ∧ (phased 99#64 (.playDelay 100)).ctrlPhase = .playDelay 100 ∧
    (phased 99#64 (.playDelay 100)).now.toNat < 100 ∧ 100 ≤ (phased 100#64 (.playDelay 100)).now.toNat ∧
    0 ≤ (phased 100#64 (.playDelay 100)).pos.sector.toInt := by decide

theorem witness_SubchannelTransmission_lane : after (exec .ctrlPlay (phased 100#64 (.playDelay 100))) (fun t =>
    decide (t.subq.lane = (phased 100#64 (.playDelay 100)).subq.lane)) = some false := by decide +kernel

theorem witness_StaleReadIsOneIterationOld :
    State.reset.halted = false ∧ opClass .ctrlIter = .ctrl ∧
    (State.reset.ctrlPhase = .top ∧ ∃ t, exec .ctrlIter State.reset = .next t) ∧
    ((settling 120#64 (.soctSettle 120)).ctrlPhase = .soctSettle 120 ∧ 120 ≤ (settling 120#64 (.soctSettle 120)).now.toNat ∧
      ∃ t, exec .ctrlSoct (settling 120#64 (.soctSettle 120)) = .next t) ∧
    ((phased 100#64 (.playDelay 100)).ctrlPhase = .playDelay 100 ∧ 100 ≤ (phased 100#64 (.playDelay 100)).now.toNat ∧
      (after (exec .ctrlPlay (phased 100#64 (.playDelay 100))) (fun t => t.old.sector)).isSome) ∧
    ((sequencing 0#64 .leadLow false).ctrlPhase = .auth ∧ ∃ t, exec .ctrlIter (sequencing 0#64 .leadLow false) = .next t) ∧
    ((settling 120#64 .top).motion.soctPending = true ∧ ∃ t, exec .ctrlSoct (settling 120#64 .top) = .next t) ∧
    ((sledding 1000#64 .forward 0#32).motion.sledDirection ≠ .stop ∧ (after (exec .ctrlSled (sledding 1000#64 .forward 0#32)) (fun t => t.old)).isSome) ∧
    ((seeking 1000#64).motion.autoseekActive = true ∧ (after (exec .ctrlSeekdone (seeking 1000#64)) (fun t => t.old)).isSome) ∧
    (sensBit (playing 0#32 0#32 0#32 true).cmd.sens (playing 0#32 0#32 0#32 true).params.sensFok = true ∧
      (playing 0#32 0#32 0#32 true).motion.autoseekActive = false ∧
      (after (exec .ctrlPlay (playing 0#32 0#32 0#32 true)) (fun t => t.old)).isSome) :=
  ⟨rfl, rfl, ⟨rfl, _, rfl⟩, ⟨rfl, by decide, _, rfl⟩, ⟨rfl, by decide, by decide +kernel⟩, ⟨rfl, _, rfl⟩, ⟨rfl, _, rfl⟩,
    ⟨by decide, by decide +kernel⟩, ⟨rfl, by decide +kernel⟩, ⟨by decide, rfl, by decide +kernel⟩⟩

/-- The qualifying condition of R280, as the statement writes it. -/
def qualifies (s : State) : Prop :=
  ((s.params.authWinLo : Int) ≤ s.pos.sector.toInt ∧ s.pos.sector.toInt < s.params.authWinHi) ∧
    sensBit s.cmd.sens s.params.sensFok = true ∧ s.inputs.overrideFlag = false ∧ s.layout.hasData = false ∧
    13333 ≤ (s.now - s.auth.lastCheck).toNat

theorem witness_AuthCheckAndFire :
    ((qualifying 13333#64 99#32).halted = false ∧ (qualifying 13333#64 99#32).ctrlPhase = .top ∧ (qualifying 13333#64 99#32).auth.counter.toNat ≤ 100) ∧
    (true = true ↔ qualifies (qualifying 13333#64 99#32)) ∧ (qualifying 13333#64 99#32).auth.counter.toNat < 100 ∧
    (true = true ↔ qualifies (qualifying 13333#64 100#32)) ∧ (qualifying 13333#64 100#32).auth.counter.toNat = 100 ∧
    (false = true ↔ qualifies (qualifying 13332#64 99#32)) ∧ (phased 0#64 .startup).ctrlPhase ≠ .top := by unfold qualifies; decide

/-- The staying condition of R288, as the statement writes it. -/
def stays (s : State) : Prop :=
  (s.params.authWinLo : Int) ≤ s.pos.sector.toInt ∧ s.pos.sector.toInt < s.params.authWinHi ∧ s.inputs.overrideFlag = false

theorem witness_AuthSequenceStep :
    ((sequencing 90000#64 .leadLow false).halted = false ∧ (sequencing 90000#64 .leadLow false).ctrlPhase = .auth ∧
      (sequencing 90000#64 .leadLow false).auth.phase = .leadLow ∧ (sequencing 90000#64 (.bit 0 42) false).auth.phase = .bit 0 42 ∧
      (sequencing 90000#64 (.bit 4 43) false).auth.phase = .bit 4 43 ∧ (sequencing 90000#64 (.bit 5 43) false).auth.phase = .bit 5 43 ∧
      (sequencing 90000#64 (.gap 4) false).auth.phase = .gap 4) ∧
    (true = true ↔ stays (sequencing 90000#64 .leadLow false)) ∧ (false = true ↔ stays (sequencing 90000#64 .leadLow true)) ∧
    ((sequencing 89999#64 .leadLow false).now - (sequencing 89999#64 .leadLow false).auth.phaseStart).toNat < 90000 ∧
    90000 ≤ ((sequencing 90000#64 .leadLow false).now - (sequencing 90000#64 .leadLow false).auth.phaseStart).toNat ∧
    State.reset.ctrlPhase ≠ .auth := by unfold stays; decide

theorem witness_AuthSequenceSchedule : (0 : Fin 6).val % 3 = 0 ∧ (4 : Fin 6).val % 3 = 1 ∧ (5 : Fin 6).val % 3 = 2 := by decide

theorem witness_AuthBlocksTheController :
    (sequencing 0#64 .leadLow false).halted = false ∧ (sequencing 0#64 .leadLow false).ctrlPhase = .auth := by decide

/-- A state whose next storage request has the given answers. -/
def storing (seek rewind : Bool) (answer : Option Nat) : State :=
  { State.reset with draws := { Draws.plain with seekOk := seek, rewindOk := rewind, readAnswer := answer } }

theorem witness_SectorReadRecovers :
    ((storing true true (some 100)).draws.readAnswer = some 100 ∧ (storing true true (some 100)).draws.seekOk = true) ∧
    ((storing false true (some 2352)).draws.readAnswer = some 2352 ∧ (storing false true (some 2352)).draws.seekOk = false ∧
      (storing false true (some 2352)).draws.rewindOk = true) ∧
    ((storing false false none).draws.seekOk = false ∧ (storing false false none).draws.rewindOk = false ∧
      (storing false false none).draws.readAnswer = none) := by decide

/-- Every state `staged` builds with a sector in range and a slot of one sector meets the invariant. -/
theorem staged_inv (sector : I32) (logical : Byte) (c : Slot) (drain : Bool) (idx : BitVec 1)
    (hs : 0 ≤ sector.toInt ∧ sector.toInt ≤ 333000) (hl : 1 ≤ logical.toNat) (hc : c.buf.length = 1176) :
    (staged sector logical c drain idx).Inv where
  params := simulation_ok
  position := ⟨hs, by show 0 ≤ (0#32).toInt ∧ (0#32).toInt ≤ 20892; decide, hl⟩
  old := by show 0 ≤ (0#32).toInt ∧ (0#32).toInt ≤ 333000; decide
  layout := fun _ _ => ⟨by show 1 ≤ (2#8).toNat ∧ (2#8).toNat ≤ 99; decide, rfl, by rfl, by rfl, by rfl⟩
  cache := by
    refine ⟨by show (c :: List.replicate 49 Reset.slot).length = 50; simp, ?_, by show (0#8).toNat < 50; decide, ?_⟩
    · intro d hd
      rcases List.mem_cons.mp hd with rfl | hd
      · exact hc
      · obtain ⟨-, rfl⟩ := List.mem_replicate.mp hd
        exact List.length_replicate
    · show (c :: List.replicate 49 Reset.slot).Pairwise _
      refine List.pairwise_cons.mpr ⟨?_, List.pairwise_replicate.mpr (.inr (by rintro ⟨h, -⟩; cases h))⟩
      intro d hd h
      obtain ⟨-, rfl⟩ := List.mem_replicate.mp hd
      exact absurd h.2.1 (by decide)
  frames := ⟨⟨List.length_replicate, List.length_replicate⟩, by show (0#2).toNat ≤ 2; decide, fun _ => rfl, fun h => by cases h⟩
  key := keygen_length _
  phases := ⟨⟨fun h => (by cases h), fun h => absurd rfl h⟩, fun h => (by cases h), ⟨fun h => (by cases h), fun h => (by cases h)⟩,
    fun _ _ => ⟨fun h => (by cases h), fun h => (by cases h), rfl, rfl⟩, fun h => (by cases h)⟩
  times := by constructor <;> (show 0#64 ≤ 5000#64; decide)
  counter := by show (0#32).toNat ≤ 100; decide
  clicks := by show 2#32 ≠ 0#32; decide
  storage := rfl

/-- A slot that holds a key. -/
def held (key : I32) : Slot := { valid := true, key := key, buf := List.replicate 1176 0x3130#16 }

/-- The key and the track of PREPARE's sector, as its statements write them. -/
def keyAndTrack (s : State) (key : I32) (k : Nat) : Prop :=
  key.toInt = (if s.sharedSector.toInt < s.params.leadInSectors then s.sharedSector.toInt.tmod s.params.preleadinKeyMod
    else s.sharedSector.toInt) ∧
  k = (match s.params.streamerTrackSource with
    | .lookup => trackOf s.params s.layout s.sharedSector.toInt
    | .logical =>
      if s.sharedTrack.toNat < 1 ∨ s.layout.trackCount.toNat + 1 < s.sharedTrack.toNat then 1 else s.sharedTrack.toNat)

/-- A miss of a data sector, a hit, a lead-in sector with a remembered drain report into the other frame, and an audio sector. -/
theorem witness_PrepareFillsTheFrame :
    ((staged 4651#32 1#8 Reset.slot false 0#1).Inv ∧ (staged 4651#32 1#8 (held 4651#32) true 1#1).Inv ∧
      (staged 4499#32 1#8 Reset.slot true 1#1).Inv ∧ (staged 14800#32 2#8 Reset.slot false 0#1).Inv) ∧
    ((staged 4651#32 1#8 Reset.slot false 0#1).poweredOn = true ∧ (staged 4651#32 1#8 Reset.slot false 0#1).halted = false ∧
      (staged 4651#32 1#8 Reset.slot false 0#1).strm.phase = .prepare ∧
      (staged 4651#32 1#8 Reset.slot false 0#1).sharedImage = (staged 4651#32 1#8 Reset.slot false 0#1).strm.loadedImage) ∧
    (keyAndTrack (staged 4651#32 1#8 Reset.slot false 0#1) 4651#32 1 ∧ keyAndTrack (staged 4499#32 1#8 Reset.slot true 1#1) 9#32 1 ∧
      keyAndTrack (staged 14800#32 2#8 Reset.slot false 0#1) 14800#32 2 ∧ keyAndTrack (staged 4500#32 4#8 Reset.slot false 0#1) 4500#32 1) :=
  ⟨⟨staged_inv _ _ _ _ _ (by decide) (by decide) List.length_replicate, staged_inv _ _ _ _ _ (by decide) (by decide) List.length_replicate,
    staged_inv _ _ _ _ _ (by decide) (by decide) List.length_replicate, staged_inv _ _ _ _ _ (by decide) (by decide) List.length_replicate⟩,
    by decide, by unfold keyAndTrack; decide +kernel⟩

theorem witness_PrepareCachesTheSector :
    (staged 4651#32 1#8 Reset.slot false 0#1).Inv ∧ lookup (staged 4651#32 1#8 Reset.slot false 0#1).strm.cache 4651#32 = none ∧
    (staged 4651#32 1#8 (held 4651#32) false 0#1).Inv ∧ lookup (staged 4651#32 1#8 (held 4651#32) false 0#1).strm.cache 4651#32 ≠ none ∧
    keyAndTrack (staged 4651#32 1#8 Reset.slot false 0#1) 4651#32 1 ∧ keyAndTrack (staged 4651#32 1#8 (held 4651#32) false 0#1) 4651#32 1 :=
  ⟨staged_inv _ _ _ _ _ (by decide) (by decide) List.length_replicate, by decide +kernel,
    staged_inv _ _ _ _ _ (by decide) (by decide) List.length_replicate, by decide +kernel, by unfold keyAndTrack; decide +kernel,
    by unfold keyAndTrack; decide +kernel⟩

theorem witness_SwapPublishesTheFrame :
    (streaming .waitClock 2#2).halted = false ∧ (streaming .waitClock 2#2).strm.phase = .waitClock ∧
    (streaming .waitClock 2#2).strm.clockEdges = 2#2 := by decide

/-- The second image selected. -/
def reselected : State := { State.reset with inputs := { State.reset.inputs with imageIndex := 1#32 } }

theorem witness_ReloadClearsTheStreamer :
    reselected.halted = false ∧ reselected.strm.phase = .prepare ∧ reselected.sharedImage ≠ reselected.strm.loadedImage := by decide

theorem witness_BlockedStreamerChangesNothing :
    haltedState.halted = true ∧ (streaming .waitDrain 0#2).strm.phase ≠ .prepare ∧ (streaming .waitDrain 0#2).strm.phase ≠ .waitClock ∧
    reselected.sharedImage ≠ reselected.strm.loadedImage ∧ (streaming .waitClock 1#2).strm.clockEdges ≠ 2#2 ∧
    State.reset.sharedImage = State.reset.strm.loadedImage := by decide

theorem witness_ProbesAnswer :
    ((-1#32 : I32).toInt < 0 ∧ 1 ≤ (((-1#32 : I32).toInt - 1).tdiv 3).tmod (3 + (withOperands [-1]).layout.trackCount.toNat) + 1) ∧
    ((∀ e ∈ Config.discE.entries, e.stream ≠ none) ∧
      (withOperands [1, 4500, 4650, 4650, 10000, 0, 0, 14650, 14800, 14650, 2850, 1]).operands = Config.discE.entries.flatMap (fun e =>
        [if e.trackType = .data then 1 else 0, e.index0.toInt, e.index1.toInt, e.fileOffset.toInt, e.size.toInt, (e.stream.getD 0 : Int)])) ∧
    ((withOperands [-1]).operands = [(0xFFFFFFFF#32 : I32).toInt] ∧ 0 ≤ (4650#32 : I32).toInt ∧ (withOperands [4650]).operands = [(4650#32 : I32).toInt]) ∧
    ((withOperands [1]).operands = [1] ∧ (1 : Int) ≤ (withOperands [1]).layout.trackCount.toNat + 1 ∧
      (3 : Int) ≤ (withOperands [3]).layout.trackCount.toNat + 1) ∧
    ((withOperands (List.replicate 10 255)).operands = (List.replicate 10 (255#8 : Byte)).map (fun b => (b.toNat : Int)) ∧
      (withOperands (List.replicate 12 0)).operands = (List.replicate 12 (0#8 : Byte)).map (fun b => (b.toNat : Int))) ∧
    ((withOperands [65535, 1175]).operands = [((65535#16 : U16).toNat : Int), 1175] ∧ (1175 : Int) < 1176) ∧
    (withOperands [65535]).operands = [((65535#16 : U16).toNat : Int)] := by decide

theorem witness_ProbesRefuseOutOfRange :
    ((withOperands [0]).operands = [0] ∧ (0 : Int) < 1) ∧ (((withOperands [4]).layout.trackCount.toNat : Int) + 1 < 4) ∧
    ((withOperands [0, 1176]).operands = [((0#16 : U16).toNat : Int), 1176] ∧ (1176 : Int) ≤ 1176) ∧
    ((withOperands [-10]).operands = [((-10#32) : I32).toInt] ∧ ((-10#32) : I32).toInt < (withOperands [-10]).params.leadInSectors ∧
      ((((-10#32) : I32).toInt - 1).tdiv 3).tmod (3 + (withOperands [-10]).layout.trackCount.toNat) + 1 ≤ 0) := by decide +kernel

theorem witness_BcdDigits : ((0 : Int) ≤ 0 ∧ (0 : Int) ≤ 99 ∧ (99 : Int) ≤ 99) ∧ (99 : Int) < 100 := by decide

theorem witness_SpiralIsExact : ∃ x y : ℚ, x = ((-1 : Int) : ℚ) * (-1 : Int) * (31499 / 100000000) + ((-1 : Int) : ℚ) * (9357516535 / 1000000000) ∧
    y = ((-1 : Int) : ℚ) * (616397 / 1000000000) + 9 ∧ ¬ 0 ≤ x ∧ 0 ≤ y := ⟨_, _, rfl, rfl, by norm_num, by norm_num⟩

theorem witness_SpiralIsExact_stored : 0 ≤ (40000#32 : I32).toInt ∧ (40000#32 : I32).toInt ≤ 40000 ∧
    fitsI32 (sectorOfTrackInt (40000#32 : I32).toInt) ∧ ¬ fitsI32 (sectorOfTrackInt 2147483647) := by decide +kernel

theorem witness_MsfInverse : (0 : Int) ≤ 0 := by decide

theorem witness_PackIsLittleEndian : (List.replicate 12 (0#8 : Byte)).length = 12 ∧ 3 < 4 := by decide

theorem witness_KeyGeneration : 0 < Config.simulation.keySkipWords ∧ Config.simulation.keySkipWords + 0 < 1176 ∧ Config.simulation.keySkipWords + 1169 < 1176 ∧ 13 < 14 := by decide

theorem witness_TrackOfIsTheFirstBound : 2 = trackOf Config.simulation State.reset.layout 14650 ∧ 2 ≤ State.reset.layout.trackCount.toNat ∧
    3 = trackOf Config.simulation State.reset.layout 333000 ∧ ¬ 3 ≤ State.reset.layout.trackCount.toNat := by decide +kernel

/-- A description LOAD rejects: its second track begins before the first one's index 1. -/
def overlapping : Description := { openFailed := false, entries := Config.discA.entries ++ Config.discA.entries }

theorem witness_LoadOrFallback :
    Config.simulation.Ok ∧ ({ openFailed := true, entries := [] } : Description).openFailed = true ∧ Config.discE.openFailed = false ∧
    load Config.simulation Config.discE = .ok (layoutOf Config.discE.entries) ∧ overlapping.openFailed = false ∧
    load Config.simulation overlapping = .errMalformed ∧
    (Config.discA.entries.getLast? = Config.discA.entries[0]? ∧ 4650 + 10000 < 2 ^ 31) :=
  ⟨simulation_ok, rfl, rfl, by decide, rfl, by decide, by decide⟩

theorem witness_InstalledLayoutIsConsistent : Config.simulation.Ok := simulation_ok

/-- A lead-in sector of each kind of point of disc E, and its layout. -/
theorem witness_LeadInBlockContents :
    State.reset.layout.trackCount.toNat = 2 ∧ (0 : Int) ≤ 0 ∧ (13 : Int) < Config.simulation.leadInSectors ∧
    ((1 : Nat) : Int) = leadInPoint State.reset.layout 0 ∧ ((2 : Nat) : Int) = leadInPoint State.reset.layout 4 ∧
    ((3 : Nat) : Int) = leadInPoint State.reset.layout 7 ∧ ((4 : Nat) : Int) = leadInPoint State.reset.layout 10 ∧
    ((5 : Nat) : Int) = leadInPoint State.reset.layout 13 := by decide +kernel

theorem witness_ProgramBlockContents :
    (Config.simulation.leadInSectors : Int) ≤ 4500 ∧ 1 = trackOf Config.simulation State.reset.layout 4500 ∧
    (4649 : Int) < Config.simulation.leadInSectors + 150 ∧ (Config.simulation.leadInSectors : Int) + 150 ≤ 4650 ∧
    1 ≤ State.reset.layout.trackCount.toNat ∧
    3 = trackOf Config.simulation State.reset.layout 17650 := by decide +kernel

theorem witness_MeterModes :
    (subq Config.simulation State.reset.layout .normal 4).isSome ∧ (subq Config.simulation State.reset.layout .normal 4650).isSome ∧
    subq Config.simulation State.reset.layout .normal (-10) = none ∧ 11 < 12 := by decide +kernel

theorem witness_OwnershipOfState :
    (∃ t, exec .ctrlIter State.reset = .next t) ∧ opClass .ctrlIter = .ctrl ∧ (∃ t, exec .strmPrepare State.reset = .next t) ∧
    opClass .strmPrepare = .strm ∧ (∃ t, exec .pKeygen State.reset = .next t) ∧ opClass .pKeygen = .probe := by
  refine ⟨⟨_, rfl⟩, rfl, ⟨_, rfl⟩, rfl, ⟨_, rfl⟩, rfl⟩

theorem witness_StorageParametersAndTime : ∃ t, step (traced State.reset (.ev16 0x1000#16)) = .next t := ⟨_, rfl⟩

theorem witness_EveryStepKeepsTheInvariant :
    (staged 4651#32 1#8 Reset.slot false 0#1).Inv ∧ ∃ t, step (staged 4651#32 1#8 Reset.slot false 0#1) = .next t :=
  ⟨staged_inv _ _ _ _ _ (by decide) (by decide) List.length_replicate, ⟨_, rfl⟩⟩

end Sys2Proof.Tests
end

