-- ==== Sys2Proof/Proofs/Memory.lean ====
section
/-! SUPPORT. Sys2Proof/Proofs/Memory.lean: the byte order of the subchannel lane words (R74, R170). -/

namespace Sys2Proof.Machine

open BitVec (extractLsb'_append_eq_left extractLsb'_append_eq_right extractLsb'_append_eq_of_le)

/-- The extraction passes over the j bytes appended below byte j, each taking eight bits off its start, and then meets that byte. -/
theorem laneWord_extractLsb'_byte (raw : List Byte) (k : Nat) {j : Nat} (hj : j < 4) :
    (laneWord raw k).extractLsb' (8 * j) 8 = raw.getD (4 * k + j) 0#8 := by
  have above {n : Nat} (i : Nat) {hi : BitVec n} {b : Byte} : (hi ++ b).extractLsb' (i + 8) 8 = hi.extractLsb' i 8 :=
    extractLsb'_append_eq_of_le (Nat.le_add_left 8 i)
  rw [laneWord]
  interval_cases j
  · exact extractLsb'_append_eq_right
  · exact (above 0).trans extractLsb'_append_eq_right
  · exact (above 8).trans <| (above 0).trans extractLsb'_append_eq_right
  · exact (above 16).trans <| (above 8).trans extractLsb'_append_eq_left

/-- Settles O47: the byte order of one lane word, at each of the three words of the block. -/
theorem packIsLittleEndian : Obligations.PackIsLittleEndian := by
  intro raw j _ hj
  have byte (k : Nat) := laneWord_extractLsb'_byte raw k hj
  exact ⟨by simpa [pack] using byte 0, byte 1, byte 2⟩

end Sys2Proof.Machine
end

