-- ==== Sys2Proof/Proofs/Encoding.lean ====
section
/-! SUPPORT. Sys2Proof/Proofs/Encoding.lean: the decoder and the encoder of words invert each other (R118). -/

namespace Sys2Proof

/-! ## Words and their two fields (R100) -/

@[simp] theorem evOp_append (op arg : Byte) : evOp (op ++ arg) = op := BitVec.extractLsb'_append_eq_left

@[simp] theorem evArg_append (op arg : Byte) : evArg (op ++ arg) = arg := BitVec.extractLsb'_append_eq_right

theorem evWord_evOp_evArg (w : U16) : evWord (evOp w) (evArg w) = .ev16 w :=
  congrArg EventWord.ev16 (BitVec.extractLsb'_append_extractLsb' (w := 8) (len := 8))

theorem decode_ev16_of_some {w : U16} {i : Instr} (h : decodeOpArg (evOp w) (evArg w) = some i) : decode (.ev16 w) = .op i := by
  rw [decode, decodeEv16, h]

theorem decode_ev16_of_none {w : U16} (h : decodeOpArg (evOp w) (evArg w) = none) :
    decode (.ev16 w) = .reserved (evOp w) (evArg w) := by
  rw [decode, decodeEv16, h]

/-! ## From an operation to its word and back -/

theorem decode_evWord {op arg : Byte} {i : Instr} (h : decodeOpArg op arg = some i) : decode (evWord op arg) = .op i :=
  decode_ev16_of_some (by rwa [evOp_append, evArg_append])

/-- An operand's code is read back by its row. The rows without an operand compute. -/
theorem decode_encode {i : Instr} (hi : i.wellFormed = true) : decode (encode i) = .op i := by
  cases i with
  | envCmd b => exact decode_evWord rfl
  | envImage n => exact decode_evWord rfl
  | envOverride v => cases v <;> rfl
  | envWclk v => cases v <;> rfl
  | envCtlmode m => cases m <;> rfl
  | xSled d => cases d <;> rfl
  | xSeek dir => cases dir <;> rfl
  | xMode m => cases m <;> rfl
  | xClicks n => exact decode_evWord (if_neg (bne_iff_ne.mp hi))
  | xSens q v =>
    apply decode_evWord
    have hq (b : BitVec 4) : (q ++ b : Byte).extractLsb' 4 4 = q := BitVec.extractLsb'_append_eq_left
    have hv (b : BitVec 4) : (q ++ b : Byte).extractLsb' 0 4 = b := BitVec.extractLsb'_append_eq_right
    cases v <;> simp [decodeOpArg, argSens, hq, hv]
  | _ => rfl

/-! ## From a word to its operation and back -/

/-- The word `{op, arg}` is the word of the well-formed operation `i`. -/
def Spells (op arg : Byte) (i : Instr) : Prop := i.wellFormed = true ∧ encode i = evWord op arg

section Rows

variable {op arg : Byte} {i : Instr}

theorem Spells.of_argZero {j : Instr} (hj : Spells op 0#8 j) (h : argZero arg j = some i) : Spells op arg i := by
  obtain ⟨rfl, rfl⟩ : arg = 0#8 ∧ j = i := by simpa [argZero] using h
  exact hj

theorem Spells.of_argBit {f : Bool → Instr} (hf : ∀ v, Spells op (bitArg v) (f v)) (h : argBit arg f = some i) :
    Spells op arg i := by
  rw [argBit] at h
  split_ifs at h with h0 h1 <;> obtain rfl := Option.some.inj h
  · exact h0 ▸ hf false
  · exact h1 ▸ hf true

theorem Spells.of_argControlMode (h : argControlMode arg = some i) : Spells 0x03#8 arg i := by
  obtain ⟨n, hn⟩ := arg
  simp only [argControlMode, BitVec.toNat] at h
  split at h <;> cases h <;> exact ⟨rfl, rfl⟩

theorem Spells.of_argSled (h : argSled arg = some i) : Spells 0x40#8 arg i := by
  obtain ⟨n, hn⟩ := arg
  simp only [argSled, BitVec.toNat] at h
  split at h <;> cases h <;> exact ⟨rfl, rfl⟩

/-- The operand is its question code above its low four bits, which are the value. -/
theorem Spells.of_argSens (h : argSens arg = some i) : Spells 0x45#8 arg i := by
  have nibbles : arg.extractLsb' 4 4 ++ arg.extractLsb' 0 4 = arg := BitVec.extractLsb'_append_extractLsb' (w := 4) (len := 4)
  have word {v : BitVec 4} (hv : (arg.extractLsb' 0 4).toNat = v.toNat) : arg.extractLsb' 4 4 ++ v = arg := by
    rwa [BitVec.eq_of_toNat_eq hv] at nibbles
  rw [argSens] at h
  split at h
  case h_1 h0 => cases h; exact ⟨rfl, congrArg (evWord 0x45#8) (word (v := 0#4) h0)⟩
  case h_2 h1 => cases h; exact ⟨rfl, congrArg (evWord 0x45#8) (word (v := 1#4) h1)⟩
  case h_3 => cases h

theorem Spells.of_xClicks (h : (if arg = 0#8 then none else some (Instr.xClicks arg)) = some i) : Spells 0x43#8 arg i := by
  obtain ⟨h0, rfl⟩ : arg ≠ 0#8 ∧ Instr.xClicks arg = i := by simpa using h
  exact ⟨bne_iff_ne.mpr h0, rfl⟩

/-- One case per row of R101, in the table's order; `h_41` is every other operation code. -/
theorem spells_of_decodeOpArg (h : decodeOpArg op arg = some i) : Spells op arg i := by
  obtain ⟨n, hn⟩ := op
  simp only [decodeOpArg, BitVec.toNat] at h
  split at h
  -- `ENV_CMD` and `ENV_IMAGE`: every operand
  case h_2 | h_5 => cases h; exact ⟨rfl, rfl⟩
  -- `ENV_OVERRIDE` and `ENV_WCLK`
  case h_3 | h_8 => exact .of_argBit (fun _ => ⟨rfl, rfl⟩) h
  case h_4 => exact .of_argControlMode h
  case h_35 => exact .of_argSled h
  -- `X_SEEK` and `X_MODE`
  case h_36 | h_37 => exact .of_argBit (fun v => by cases v <;> exact ⟨rfl, rfl⟩) h
  case h_38 => exact .of_xClicks h
  case h_40 => exact .of_argSens h
  case h_41 => cases h
  all_goals exact .of_argZero ⟨rfl, rfl⟩ h

end Rows

/-- An operation code and operand that no row takes are those of no well-formed operation, since its word would be read back. -/
theorem encode_ne_of_reserved {e : EventWord} {op arg : Byte} (h : decode e = .reserved op arg) {i : Instr}
    (hi : i.wellFormed = true) : encode i ≠ e := by
  rintro rfl
  cases h.symm.trans (decode_encode hi)

/-- Settles O10, by what the rows of R101 answer for the word's two fields. -/
theorem encodeOfDecode : Obligations.EncodeOfDecode := by
  rintro (w | b)
  case cmd8 => exact .inl ⟨.cmd8 b, rfl, rfl, rfl⟩
  case ev16 =>
    cases h : decodeOpArg (evOp w) (evArg w) with
    | some i =>
      obtain ⟨hi, he⟩ := spells_of_decodeOpArg h
      exact .inl ⟨i, hi, decode_ev16_of_some h, he.trans (evWord_evOp_evArg w)⟩
    | none =>
      have hd := decode_ev16_of_none h
      exact .inr ⟨w, rfl, hd, fun _ hi => encode_ne_of_reserved hd hi⟩

end Sys2Proof
end

