-- ==== Sys2Proof/Proofs/Datapath.lean ====
section
/-! SUPPORT. Sys2Proof/Proofs/Datapath.lean: BCD digits (R109, R139) and the sample datapath (R112, R202, R203). -/

namespace Sys2Proof.Machine

/-! ## BCD -/

theorem toBcd_of_digits {v : Int} (h0 : 0 ≤ v) (h99 : v ≤ 99) : toBcd v = BitVec.ofInt 8 (v / 10 * 16 + v % 10) := by
  rw [toBcd, if_neg (by omega), if_neg (by omega), Int.tdiv_eq_ediv_of_nonneg h0, Int.tmod_eq_emod_of_nonneg h0]

theorem toBcd_of_gt {v : Int} (h : 99 < v) : toBcd v = 0x99#8 := by
  rw [toBcd, if_neg (by omega), if_pos h]

/-- Settles O44: up to 99 the two digits fit the byte, above 99 it is the saturated value. -/
theorem bcdDigits : Obligations.BcdDigits := by
  refine fun v => ⟨fun h0 h99 => ?_, toBcd_of_gt⟩
  rw [toBcd_of_digits h0 h99, BitVec.toNat_ofInt]
  omega

/-! ## Sample datapath -/

theorem scramble_scramble (key : List U16) (w : U16) (i : Nat) : scramble key (scramble key w i) i = w := by
  rw [scramble, scramble, scrambleWord, scrambleWord, BitVec.xor_assoc, BitVec.xor_self, BitVec.xor_zero]

/-- Settles O48: the three fields that `condition` puts together, and the key's word xored with itself. -/
theorem sampleDatapath : Obligations.SampleDatapath := by
  intro key w i
  refine ⟨?_, ?_, BitVec.extractLsb'_append_eq_right, scramble_scramble key w i⟩
  · exact (BitVec.extractLsb'_append_eq_of_le (by decide)).trans BitVec.extractLsb'_append_eq_left
  · exact (BitVec.extractLsb'_append_eq_of_le (by decide)).trans BitVec.extractLsb'_append_eq_right

end Sys2Proof.Machine
end

