-- ==== Sys2Proof/Proofs/Layout.lean ====
section
/-! SUPPORT. Sys2Proof/Proofs/Layout.lean: sector counts as times (R138, R140), the disc descriptions LOAD builds, rejects and
replaces (R132 to R135), the installed layout (R141), and the track of a sector (R136). -/

namespace Sys2Proof.Machine

/-! ## MSF -/

theorem msf_eq (s : Int) : msf s =
    { mm := (s.natAbs / 75 / 60 : Nat), ss := (s.natAbs / 75 % 60 : Nat), ff := (s.natAbs % 75 : Nat) } := by
  simp only [msf, Int.natAbs_tmod, Int.natAbs_tdiv]
  rfl

@[simp] theorem msf_neg (s : Int) : msf (-s) = msf s := by rw [msf_eq, msf_eq, Int.natAbs_neg]

theorem sectorOfMsf_msf {s : Int} (h : 0 ≤ s) : sectorOfMsf (msf s) = s := by
  simp only [msf_eq, sectorOfMsf, Config.framesPerSecond, Config.secondsPerMinute]
  omega

/-- Settles O43: truncating division and remainder commute with the absolute value. -/
theorem msfInverse : Obligations.MsfInverse :=
  fun s => ⟨by rw [msf_eq], by rw [msf_eq], by rw [msf_eq], msf_neg s, sectorOfMsf_msf⟩

/-! ## TRACK_OF -/

/-- Up to the last track, the bound after the track TRACK_OF answers lies above the sector. -/
theorem lt_boundOf_trackOf {p : Params} {L : Layout} {s : Int} (h : trackOf p L s ≤ L.trackCount.toNat) :
    s < boundOf p.trackBoundField (trackAt L (trackOf p L s + 1)) := by
  unfold trackOf at h ⊢
  split
  case h_1 k hk => exact of_decide_eq_true (List.find?_range_eq_some.mp hk).1
  case h_2 hn => simp [hn, leadOutNumber] at h

/-- No bound after an earlier track lies above the sector. -/
theorem boundOf_le_of_lt_trackOf {p : Params} {L : Layout} {s : Int} {u : Nat} (h1 : 1 ≤ u) (h : u < trackOf p L s) :
    boundOf p.trackBoundField (trackAt L (u + 1)) ≤ s := by
  obtain ⟨j, rfl⟩ := Nat.exists_eq_add_of_le' h1
  have notAbove : (!decide (s < boundOf p.trackBoundField (trackAt L (j + 2)))) = true := by
    unfold trackOf at h
    split at h
    case h_1 k hk => exact (List.find?_range_eq_some.mp hk).2.2 j (by omega)
    case h_2 hn => exact List.find?_range_eq_none.mp hn j (by rw [leadOutNumber] at h; omega)
  simpa using notAbove

/-- Settles O52: the scan stops at the first bound above the sector. -/
theorem trackOfIsTheFirstBound : Obligations.TrackOfIsTheFirstBound := by
  rintro p L s _ rfl
  obtain ⟨lower, upper⟩ := trackOf_range p L s
  exact ⟨lower, upper, lt_boundOf_trackOf, fun _ => boundOf_le_of_lt_trackOf⟩

/-! ## LOAD -/

/-- What LOAD's loop rejects at an entry that the entry `next` follows, if any (R132). -/
def EntryInconsistent (e : Track) (next : Option Track) : Prop :=
  e.index1.toInt < e.index0.toInt ∨ e.size.toInt < 0 ∨ ∃ n : Track, next = some n ∧ n.index0.toInt < e.index1.toInt

theorem entriesConsistent_cons (e : Track) (rest : List Track) :
    entriesConsistent (e :: rest) = true ↔ ¬ EntryInconsistent e rest[0]? ∧ entriesConsistent rest = true := by
  cases rest <;> simp [entriesConsistent, EntryInconsistent, and_assoc]

theorem not_entriesConsistent_iff (es : List Track) :
    ¬ entriesConsistent es = true ↔ ∃ t e, es[t]? = some e ∧ EntryInconsistent e es[t + 1]? := by
  induction es with
  | nil => simp [entriesConsistent]
  | cons e rest ih =>
    rw [entriesConsistent_cons, not_and_or, not_not, ih]
    conv_rhs => rw [← Nat.or_exists_add_one]
    simp

section Load

variable {p : Params} {d : Description}

theorem load_of_openFailed (h : d.openFailed = true) : load p d = .errOpen := by rw [load, if_pos h]

theorem load_eq_errMalformed_iff (h : d.openFailed = false) : load p d = .errMalformed ↔
    d.entries.length < 1 ∨ p.maxTracks < d.entries.length ∨ ¬ entriesConsistent d.entries = true := by
  rw [load, if_neg (by simp [h]), ← or_assoc]
  split_ifs with hl hc
  · exact iff_of_true rfl (.inl hl)
  · exact iff_of_false nofun (not_or.mpr ⟨hl, not_not.mpr hc⟩)
  · exact iff_of_true rfl (.inr hc)

theorem installed_of_load_ok {L : Layout} (h : load p d = .ok L) : installed p d = L := by rw [installed, h]

theorem installed_of_load_err (h : load p d = .errOpen ∨ load p d = .errMalformed) : installed p d = fallback p d := by
  rcases h with h | h <;> rw [installed, h]

end Load

theorem layoutOf_hasData_iff (es : List Track) : (layoutOf es).hasData = true ↔ ∃ e ∈ es, e.trackType = .data := by
  simp [layoutOf]

theorem leadOutAfter_eq (e : Track) :
    leadOutAfter e = { e with index0 := (leadOutAfter e).index0, index1 := (leadOutAfter e).index0, size := 0#32 } := rfl

/-- A track without sectors ends where it starts. -/
theorem leadOutAfter_of_size_zero {e : Track} (h : e.size = 0#32) : leadOutAfter e = { e with index0 := e.index1 } := by
  obtain ⟨kind, index0, index1, offset, size, stream⟩ := e
  obtain rfl : size = 0#32 := h
  simp [leadOutAfter]

/-- A size that is not negative keeps the sum at or above the least `i32`, so that only the top can be passed. -/
theorem leadOutAfter_index0_toInt {e : Track} (h0 : 0 ≤ e.size.toInt) (h : e.index1.toInt + e.size.toInt < 2 ^ 31) :
    (leadOutAfter e).index0.toInt = e.index1.toInt + e.size.toInt := by
  obtain ⟨least, _⟩ := fitsI32_toInt e.index1
  exact narrowI32_toInt ⟨by omega, h⟩

theorem size_nonneg_of_entriesConsistent {es : List Track} {e : Track} (h : entriesConsistent es = true) (he : e ∈ es) :
    0 ≤ e.size.toInt := by
  obtain ⟨t, ht⟩ := List.mem_iff_getElem?.mp he
  by_contra hneg
  exact (not_entriesConsistent_iff es).mpr ⟨t, e, ht, .inr (.inl (not_le.mp hneg))⟩ h

/-! ## The fallback disc -/

section Fallback

variable {p : Params} {d : Description}

theorem fallback_eq : fallback p d =
    { tracks := [fallbackTrack p d, leadOutAfter (fallbackTrack p d)], trackCount := 1#8, hasData := true } := rfl

theorem fallbackTrack_index0_toInt (hp : p.Ok) : (fallbackTrack p d).index0.toInt = p.leadInSectors := by
  have fits := hp.leadIn
  rw [fallbackTrack_index0, narrowI32_toInt ⟨by omega, by omega⟩]

theorem fallbackTrack_index1_toInt (hp : p.Ok) : (fallbackTrack p d).index1.toInt = p.leadInSectors + 150 := by
  have fits := hp.leadIn
  rw [fallbackTrack_index1, narrowI32_toInt ⟨by omega, by omega⟩]

theorem fallbackTrack_fileOffset_toInt (hp : p.Ok) : (fallbackTrack p d).fileOffset.toInt = p.leadInSectors + 150 := by
  rw [← fallbackTrack_index1_toInt (d := d) hp, fallbackTrack_fileOffset, fallbackTrack_index1]

theorem fallbackTrack_size : (fallbackTrack p d).size = 0#32 := rfl

theorem entriesConsistent_fallback (hp : p.Ok) : entriesConsistent [fallbackTrack p d] = true := by
  refine (entriesConsistent_cons ..).mpr ⟨?_, rfl⟩
  rintro (h | h | ⟨_, h, _⟩)
  · rw [fallbackTrack_index1_toInt hp, fallbackTrack_index0_toInt hp] at h
    omega
  · rw [fallbackTrack_size] at h
    contradiction
  · cases h

end Fallback

/-- Settles O50: what LOAD answers, what `layoutOf` makes of the entries it accepts, and the fallback for the others. -/
theorem loadOrFallback : Obligations.LoadOrFallback := by
  intro p d hp
  refine ⟨load_of_openFailed, fun ho => ?_, fun L hL => ?_, fun herr => ?_⟩
  · rw [load_eq_errMalformed_iff ho, not_entriesConsistent_iff]
    rfl
  · obtain ⟨_, _, hmax, hc, rfl⟩ := load_ok hL
    have hcount : d.entries.length < 256 := by have := hp.maxTracks; omega
    refine ⟨installed_of_load_ok hL, layoutOf_trackCount hcount, fun t e he => ?_, ?_, layoutOf_hasData_iff d.entries⟩
    · obtain ⟨ht, rfl⟩ := List.getElem?_eq_some_iff.mp he
      exact trackAt_layoutOf ht
    · rintro e _ he rfl
      rw [trackAt_layoutOf_leadOut, List.getLastD_eq_getLast?, he]
      have hsize := size_nonneg_of_entriesConsistent hc (List.mem_of_getLast? he)
      exact ⟨leadOutAfter_eq e, leadOutAfter_index0_toInt hsize⟩
  · refine ⟨fallbackTrack p d, leadOutAfter (fallbackTrack p d), (installed_of_load_err herr).trans fallback_eq, rfl,
      fallbackTrack_index0_toInt hp, fallbackTrack_index1_toInt hp, fallbackTrack_fileOffset_toInt hp, fallbackTrack_size,
      fun f rest h => ?_, fun h => ?_, leadOutAfter_of_size_zero fallbackTrack_size⟩
    · rw [fallbackTrack, h]
    · rw [fallbackTrack, h]

/-! ## The installed layout -/

/-- Entries that pass LOAD's checks make a layout that meets R141. -/
theorem layoutOk_layoutOf {p : Params} {es : List Track} (hp : p.Ok) (h1 : 1 ≤ es.length) (hmax : es.length ≤ p.maxTracks)
    (hc : entriesConsistent es = true) : LayoutOk p (layoutOf es) := by
  have hcount : (layoutOf es).trackCount.toNat = es.length := layoutOf_trackCount (by have := hp.maxTracks; omega)
  have htake : (layoutOf es).tracks.take es.length = es := List.take_left
  have hlast : trackAt (layoutOf es) es.length = es.getLastD blankTrack := by
    obtain ⟨k, hk⟩ := Nat.exists_eq_add_of_le' h1
    rw [hk, trackAt_layoutOf (by omega), List.getLastD_eq_getLast?, List.getLast?_eq_getElem?]
    simp [hk]
  constructor <;> rw [hcount]
  case count => exact ⟨h1, hmax⟩
  case entries => exact List.length_append
  case order => rwa [htake]
  case leadOut => rw [hlast, trackAt_layoutOf_leadOut]
  case hasData => rw [htake]; rfl

/-- Settles O51: LOAD's result and the fallback are both built from consistent entries. -/
theorem installedLayoutIsConsistent : Obligations.InstalledLayoutIsConsistent := by
  intro p d hp
  have hfallback : LayoutOk p (fallback p d) := layoutOk_layoutOf hp le_rfl hp.maxTracks.1 (entriesConsistent_fallback hp)
  cases h : load p d with
  | ok L =>
    obtain ⟨_, h1, hmax, hc, rfl⟩ := load_ok h
    rw [installed_of_load_ok h]
    exact layoutOk_layoutOf hp h1 hmax hc
  | errOpen => rwa [installed_of_load_err (.inl h)]
  | errMalformed => rwa [installed_of_load_err (.inr h)]

end Sys2Proof.Machine
end

