-- ==== Sys2Proof/Proofs/Subq.lean ====
section
/-! SUPPORT. Sys2Proof/Proofs/Subq.lean: the table-driven CRC (R166, R167), the points and blocks of the lead-in (R151 to R156,
R169), and the meter modes (R164, R165). -/

namespace Sys2Proof.Machine

/-! ## CRC -/

theorem crcSteps_succ (n : Nat) (c : U16) : crcSteps (n + 1) c = crcSteps n (crcSteps 1 c) := rfl

theorem crcSteps_one (x : U16) : crcSteps 1 x = x <<< 1 ^^^ (if x.getLsbD 15 then 0x1021#16 else 0#16) := by
  simp only [crcSteps]
  split
  · rfl
  · exact BitVec.xor_zero.symm

/-- Where both operands shift a bit out, the polynomial cancels. -/
theorem crcSteps_one_xor (x y : U16) : crcSteps 1 (x ^^^ y) = crcSteps 1 x ^^^ crcSteps 1 y := by
  have poly (a b : Bool) : (if a ^^ b then 0x1021#16 else 0#16) =
      (if a then 0x1021#16 else 0#16) ^^^ (if b then 0x1021#16 else 0#16) := by cases a <;> cases b <;> rfl
  simp only [crcSteps_one, BitVec.shiftLeft_xor_distrib, BitVec.getLsbD_xor, poly]
  ac_rfl

/-- The steps are linear over xor. -/
theorem crcSteps_xor (n : Nat) (x y : U16) : crcSteps n (x ^^^ y) = crcSteps n x ^^^ crcSteps n y := by
  induction n generalizing x y with
  | zero => rfl
  | succ n ih => rw [crcSteps_succ, crcSteps_one_xor, ih, ← crcSteps_succ, ← crcSteps_succ]

/-- Steps that shift out only zeros are a shift. -/
theorem crcSteps_eq_shiftLeft (n : Nat) (c : U16) (h : ∀ i, 16 ≤ i + n → c.getLsbD i = false) : crcSteps n c = c <<< n := by
  induction n generalizing c with
  | zero => exact (BitVec.shiftLeft_zero c).symm
  | succ n ih =>
    have step : crcSteps 1 c = c <<< 1 := by rw [crcSteps_one, h 15 (by omega)]; exact BitVec.xor_zero
    rw [crcSteps_succ, step, ih, ← BitVec.shiftLeft_add, Nat.add_comm]
    intro i hi
    cases i with
    | zero => simp
    | succ i => simp [h i (by omega)]

theorem crcTable_getD {x : U16} (h : x.toNat < 256) : crcTable.getD x.toNat 0#16 = crcSteps 8 (x <<< 8) := by
  simp [crcTable, h]

theorem high_xor_low (c : U16) : (c >>> 8) <<< 8 ^^^ (c <<< 8) >>> 8 = c := by
  ext i hi
  grind

theorem low_shiftLeft (c : U16) : ((c <<< 8) >>> 8) <<< 8 = c <<< 8 := by
  ext i hi
  grind

/-- The table answers for the high byte of the register; the low byte is only shifted. -/
theorem crcSteps_eight (c : U16) : crcSteps 8 c = crcTable.getD (c >>> 8).toNat 0#16 ^^^ c <<< 8 := by
  have low : crcSteps 8 ((c <<< 8) >>> 8) = c <<< 8 := by
    rw [crcSteps_eq_shiftLeft, low_shiftLeft]
    intro i hi
    grind
  calc crcSteps 8 c
    _ = crcSteps 8 ((c >>> 8) <<< 8 ^^^ (c <<< 8) >>> 8) := by rw [high_xor_low]
    _ = crcTable.getD (c >>> 8).toNat 0#16 ^^^ c <<< 8 := by
      rw [crcSteps_xor, low, crcTable_getD (c.toNat_ushiftRight_lt 8 (by decide))]

theorem crcByte_eq (c : U16) (b : Byte) : crcByte c b = crcSteps 8 (c ^^^ b.setWidth 16 <<< 8) := by
  have high : b.setWidth 16 <<< 8 >>> 8 = b.setWidth 16 := by ext i hi; grind
  have out : b.setWidth 16 <<< 8 <<< 8 = 0#16 := by
    rw [← BitVec.shiftLeft_add]; exact BitVec.shiftLeft_eq_zero le_rfl
  rw [crcSteps_eight, BitVec.ushiftRight_xor_distrib, high, BitVec.toNat_xor, BitVec.toNat_setWidth_of_le (by decide),
    BitVec.shiftLeft_xor_distrib, out, BitVec.xor_zero, crcByte]

/-- Settles O46: the steps are linear, so that the table answers for the high byte and the low byte is only shifted. -/
theorem crcIsBitwise : Obligations.CrcIsBitwise := by
  intro p raw
  simp only [← crcSteps_eq, ← crcByte_eq, crc]

/-! ## The points of the lead-in -/

theorem leadInPoint_zero (L : Layout) : leadInPoint L 0 = 1 := by simp [leadInPoint]

/-- From sector 1 on the truncating divisions of R151 round down. -/
theorem leadInPoint_of_pos (L : Layout) {s : Int} (h : 1 ≤ s) : leadInPoint L s = (s - 1) / 3 % (L.trackCount.toNat + 3) + 1 := by
  have h0 : 0 ≤ s - 1 := by omega
  rw [leadInPoint, Int.tdiv_eq_ediv_of_nonneg h0, Int.tmod_eq_emod_of_nonneg (Int.ediv_nonneg h0 (by decide)), Int.add_comm 3]

/-- Settles O53: three consecutive sectors have the same quotient by 3. -/
theorem leadInPointCycle : Obligations.LeadInPointCycle := by
  rintro L _ k rfl
  have point {s : Int} (h : (s - 1) / 3 = k) : leadInPoint L s = k % (L.trackCount.toNat + 3) + 1 := by
    rw [leadInPoint_of_pos L (by omega), h]
  exact ⟨leadInPoint_zero L, point (by omega), point (by omega), point (by omega)⟩

/-! ## The blocks of the lead-in -/

section LeadIn

variable {p : Params} {L : Layout} {s : Int}

theorem leadInBlock_track {pt : Nat} (h : pt ≤ L.trackCount.toNat) : leadInBlock p L s pt =
    blockOf (ctlOf p (trackAt L pt)) 0x00#8 (toBcd pt) (bcd3 (msf (s - p.leadInSectors))) (tocTrackAbs p L pt) := if_pos h

theorem leadInBlock_firstTrack : leadInBlock p L s (L.trackCount.toNat + 1) =
    blockOf (ctlOf p (trackAt L 1)) 0x00#8 0xA0#8 (bcd3 (msf (s - p.leadInSectors)))
      [0x01#8, if L.hasData then p.a0PsecMixed else p.a0PsecAudio, 0x00#8] := by
  simp [leadInBlock]

theorem leadInBlock_lastTrack : leadInBlock p L s (L.trackCount.toNat + 2) =
    blockOf (ctlOf p (trackAt L L.trackCount.toNat)) 0x00#8 0xA1#8 (bcd3 (msf (s - p.leadInSectors)))
      [toBcd L.trackCount.toNat, 0x00#8, 0x00#8] := by
  simp [leadInBlock]

theorem leadInBlock_leadOut : leadInBlock p L s (L.trackCount.toNat + 3) =
    blockOf (ctlOf p (trackAt L L.trackCount.toNat)) 0x00#8 0xA2#8 (bcd3 (msf (s - p.leadInSectors)))
      (bcd3 (msf ((trackAt L (L.trackCount.toNat + 1)).index1.toInt - p.leadInSectors))) := by
  simp [leadInBlock]

theorem tocTrackAbs_one : tocTrackAbs p L 1 = [0x00#8, 0x02#8, 0x00#8] := if_pos rfl

theorem tocTrackAbs_of_ne_one {k : Nat} (h : k ≠ 1) :
    tocTrackAbs p L k = bcd3 (msf ((trackAt L k).index1.toInt - p.leadInSectors)) := if_neg h

theorem tocTrackAbs_bytes (k : Nat) : ∃ a b c, tocTrackAbs p L k = [a, b, c] := by
  by_cases h : k = 1
  · exact ⟨_, _, _, h ▸ tocTrackAbs_one⟩
  · exact ⟨_, _, _, tocTrackAbs_of_ne_one h⟩

theorem applyMode_crc {m : ControlMode} (h : m = .normal ∨ m = .altNormal) (raw : List Byte) :
    applyMode p m s raw = storeCrc p raw := by
  rcases h with rfl | rfl <;> rfl

theorem subq_leadIn {m : ControlMode} {pt : Nat} (h : s < p.leadInSectors) (hpt : leadInPoint L s = pt) (h1 : 1 ≤ pt) :
    subq p L m s = some { raw := applyMode p m s (leadInBlock p L s pt), lookup := none } := by
  rw [subq, if_pos h, hpt, if_neg (by omega), Int.toNat_natCast]

end LeadIn

/-- Settles O54: the block of each kind of point, with the CRC stored over its two zero bytes. -/
theorem leadInBlockContents : Obligations.LeadInBlockContents := by
  rintro p L m s pt _ _ hm h0 hs hpt rfl rfl
  obtain ⟨lower, upper⟩ := leadInPoint_range L h0
  have range : 1 ≤ pt ∧ pt ≤ L.trackCount.toNat + 3 := by omega
  have block := subq_leadIn (m := m) hs hpt.symm range.1
  rw [applyMode_crc hm] at block
  have kind : pt ≤ L.trackCount.toNat ∨ pt = L.trackCount.toNat + 1 ∨ pt = L.trackCount.toNat + 2 ∨
    pt = L.trackCount.toNat + 3 := by omega
  rcases kind with track | rfl | rfl | rfl
  · obtain ⟨a, b, c, value⟩ := tocTrackAbs_bytes (p := p) (L := L) pt
    rw [leadInBlock_track track, value] at block
    refine ⟨_, pt, _, toBcd pt, a, b, c, block, rfl, ctlOf_eq .., storeCrc_block .., fun _ => ⟨rfl, rfl, ?_, ?_⟩,
      by omega, by omega, by omega, range⟩
    · rintro rfl; rw [← value, tocTrackAbs_one]
    · intro other; rw [← value, tocTrackAbs_of_ne_one other]
  · rw [leadInBlock_firstTrack] at block
    exact ⟨_, 1, _, _, _, _, _, block, rfl, ctlOf_eq .., storeCrc_block .., by omega, fun _ => ⟨rfl, rfl, rfl⟩, by omega,
      by omega, range⟩
  · rw [leadInBlock_lastTrack] at block
    exact ⟨_, L.trackCount.toNat, _, _, _, _, _, block, rfl, ctlOf_eq .., storeCrc_block .., by omega, by omega,
      fun _ => ⟨rfl, rfl, rfl⟩, by omega, range⟩
  · rw [leadInBlock_leadOut] at block
    exact ⟨_, L.trackCount.toNat, _, _, _, _, _, block, rfl, ctlOf_eq .., storeCrc_block .., by omega, by omega, by omega,
      fun _ => ⟨rfl, rfl, rfl⟩, range⟩

/-! ## The meter modes -/

theorem getD_set_of_lt {raw : List Byte} {i : Nat} (h : i < raw.length) (k : Nat) (v : Byte) :
    (raw.set k v).getD i 0#8 = if i = k then v else raw.getD i 0#8 := by
  simp [h, List.getElem_set, eq_comm]

/-- Settles O56: every mode acts on one list of twelve bytes, whose last two are zero (R150). -/
theorem meterModes : Obligations.MeterModes := by
  intro p L s
  rcases subq_modes p L s with hnone | ⟨b0, b1, b2, b3, b4, b5, b6, b7, b8, b9, lk, hsome⟩
  · exact ⟨by simp [hnone], by simp [hnone]⟩
  · generalize hraw : [b0, b1, b2, b3, b4, b5, b6, b7, b8, b9, 0#8, 0#8] = raw at hsome
    have length : raw.length = 12 := hraw ▸ rfl
    have bytes {i : Nat} (hi : i < 12) :
        raw.getD i 0#8 = if i < 10 then (applyMode p .normal s raw).getD i 0#8 else 0x00#8 := by
      subst hraw
      interval_cases i <;> rfl
    have parity : s.tmod 2 = 0 ↔ s % 2 = 0 := by rw [← Int.dvd_iff_tmod_eq_zero, Int.dvd_iff_emod_eq_zero]
    refine ⟨fun r hr => ?_, by simp [hsome]⟩
    obtain rfl := Option.some.inj ((hsome .normal).symm.trans hr)
    refine ⟨by simp [applyMode, storeCrc, length], _, _, hsome .levelMeter, hsome .peakMeter, rfl,
      List.length_set.trans length, rfl, List.length_set.trans length, fun i hi => ?_⟩
    rw [← bytes hi, ← if_congr parity rfl rfl]
    exact ⟨getD_set_of_lt (by omega) _ _, getD_set_of_lt (by omega) _ _⟩

end Sys2Proof.Machine
end

