-- ==== Sys2Proof/Proofs/Streamer.lean ====
section
/-! SUPPORT. Sys2Proof/Proofs/Streamer.lean: the scrambling key (R190), the bytes of a sector read (R197), PREPARE (R194 to R199,
R204, R206) and SWAP (R201). -/

namespace Sys2Proof.Machine

/-! ## The scrambling key -/

/-- The feedback enters at bit 15, which the shift takes to bit 14; every other bit is the one above it. -/
theorem keyStep_getLsbD (k : U16) (i : Nat) : (keyStep k).getLsbD i =
    ((decide (i = 14) && (k.getLsbD 0 ^^ k.getLsbD 1)) || k.getLsbD (i + 1)) := by
  have fed (n : Nat) : ((k &&& 1#16) ^^^ ((k >>> 1) &&& 1#16)).getLsbD n = (decide (n = 0) && (k.getLsbD 0 ^^ k.getLsbD 1)) := by
    rcases n with _ | n <;> simp
  rw [keyStep, BitVec.getLsbD_ushiftRight, BitVec.getLsbD_or, BitVec.getLsbD_shiftLeft, fed, Nat.add_comm 1 i]
  grind

theorem keySteps_add (m n : Nat) (k : U16) : keySteps (m + n) k = keySteps n (keySteps m k) := by
  induction m generalizing k with
  | zero => rw [Nat.zero_add, keySteps]
  | succ m ih => rw [Nat.succ_add, keySteps, ih, keySteps]

/-- Each word moves the register on by sixteen steps. -/
theorem keyWords_getElem? {n j : Nat} (h : j < n) (k : U16) : (keyWords n k)[j]? = some
    ((keySteps (16 * j + 8) k).extractLsb' 0 8 ++ (keySteps (16 * j) k).extractLsb' 0 8) := by
  induction n generalizing j k with
  | zero => contradiction
  | succ n ih =>
    cases j with
    | zero => rfl
    | succ j =>
      have steps {m n : Nat} (h : 16 + m = n) : keySteps m (keySteps 16 k) = keySteps n k := by rw [← keySteps_add, h]
      rw [keyWords, List.getElem?_cons_succ, ih (Nat.lt_of_succ_lt_succ h), steps (n := 16 * (j + 1) + 8) (by omega),
        steps (n := 16 * (j + 1)) (by omega)]

theorem keygen_getD_skipped {p : Params} {i : Nat} (h : i < p.keySkipWords) : (keygen p).getD i 0#16 = 0#16 := by
  by_cases hi : i < Config.sectorWords
  · rw [List.getD_eq_getElem?_getD, keygen, List.getElem?_append_left (by simp [h, hi])]
    simp [h, hi]
  · exact List.getD_eq_default _ _ (by rw [keygen_length]; exact not_lt.mp hi)

theorem keygen_getD_key {p : Params} {j : Nat} (h : p.keySkipWords + j < 1176) : (keygen p).getD (p.keySkipWords + j) 0#16 =
    (keySteps (16 * j + 8) p.keyInit).extractLsb' 0 8 ++ (keySteps (16 * j) p.keyInit).extractLsb' 0 8 := by
  have skip : min p.keySkipWords Config.sectorWords = p.keySkipWords := Nat.min_eq_left (by rw [Config.sectorWords]; omega)
  rw [List.getD_eq_getElem?_getD, keygen, skip, List.getElem?_append_right (by simp), List.length_replicate,
    Nat.add_sub_cancel_left, keyWords_getElem? (by rw [Config.sectorWords]; omega), Option.getD_some]

/-- Settles O49: the bits of one step, and the words by the steps before each. -/
theorem keyGeneration : Obligations.KeyGeneration := by
  refine ⟨fun k => ⟨?_, ?_, fun i hi => ?_⟩,
    fun p => ⟨keygen_length p, fun _ => keygen_getD_skipped, fun _ => keygen_getD_key⟩⟩
  · rw [keyStep_getLsbD]; simp
  · rw [keyStep_getLsbD]; simp
  · rw [keyStep_getLsbD]; simp [hi.ne]

/-! ## Storage reads -/

section SectorRead

variable {s : State} {stream : Option Nat} {addr : Int}

theorem readSector_bytes_of_error (h : s.draws.readAnswer = none) (offset : Nat) :
    (s.readSector stream offset).bytes = silence := by
  cases stream <;> simp [State.readSector, h]

/-- An answer Ok(n) gives n bytes of the stream and zeros after them. -/
theorem readSector_getElem? {n i : Nat} (h : s.draws.readAnswer = some n) (handle offset : Nat) (hi : i < 2352) :
    (s.readSector (some handle) offset).bytes[i]? = some (if i < n then s.storage.read handle (offset + i) else 0#8) := by
  have size : Config.sectorBytes = 2352 := rfl
  simp only [State.readSector, h, size]
  split_ifs with hn
  · rw [List.getElem?_append_left (by simp; omega)]
    simp [Storage.readRange, hn, hi]
  · rw [List.getElem?_append_right (by simp; omega), List.getElem?_replicate, if_pos (by simp; omega)]

theorem sectorRead_of_seekOk (h0 : 0 ≤ addr) (hseek : s.draws.seekOk = true) :
    s.sectorRead stream addr = s.readSector stream addr.toNat := if_pos ⟨h0, hseek⟩

theorem seek_failed (h : addr < 0 ∨ s.draws.seekOk = false) : ¬ (0 ≤ addr ∧ s.draws.seekOk = true) := by
  rintro ⟨h0, hseek⟩
  rcases h with h | h
  · omega
  · simp [hseek] at h

theorem sectorRead_bytes_of_rewindOk (hfail : addr < 0 ∨ s.draws.seekOk = false) (hrewind : s.draws.rewindOk = true) :
    (s.sectorRead stream addr).bytes = (s.readSector stream 0).bytes := by
  rw [State.sectorRead, if_neg (seek_failed hfail), if_pos hrewind]

theorem sectorRead_bytes_of_rewind_failed (hfail : addr < 0 ∨ s.draws.seekOk = false) (hrewind : s.draws.rewindOk = false) :
    (s.sectorRead stream addr).bytes = silence := by
  rw [State.sectorRead, if_neg (seek_failed hfail), if_neg (by simp [hrewind])]

/-- A stream whose every read is silent is silent whatever the seeks answer. -/
theorem sectorRead_bytes_of_silent (h : ∀ offset, (s.readSector stream offset).bytes = silence) :
    (s.sectorRead stream addr).bytes = silence := by
  rw [State.sectorRead]
  split_ifs
  · exact h _
  · exact h 0
  · rfl

end SectorRead

/-- Settles O35: where the read starts by what the seeks answer, and its bytes by what the read answers. -/
theorem sectorReadRecovers : Obligations.SectorReadRecovers := by
  intro s h addr
  refine ⟨sectorRead_length s _ _, fun n hread h0 hseek i hi => ?_, fun n hread hfail hrewind i hi => ?_,
    sectorRead_bytes_of_rewind_failed, fun herr => sectorRead_bytes_of_silent (readSector_bytes_of_error herr),
    sectorRead_bytes_of_silent fun _ => rfl⟩
  · rw [sectorRead_of_seekOk h0 hseek, readSector_getElem? hread h _ hi]
  · rw [sectorRead_bytes_of_rewindOk hfail hrewind, readSector_getElem? hread h 0 hi, Nat.zero_add]

/-! ## The cache -/

/-- A key that no slot held is found where a slot that holds it is put. -/
theorem lookup_set_of_lookup_none {cache : List Slot} {key : I32} {j : Nat} {c : Slot} (hnone : lookup cache key = none)
    (hj : j < cache.length) (hvalid : c.valid = true) (hkey : c.key = key) : lookup (cache.set j c) key = some j := by
  refine List.findIdx?_eq_some_iff_getElem.mpr ⟨by simpa, by simp [hvalid, hkey], fun i hi => ?_⟩
  have other := lookup_none hnone cache[i] (List.getElem_mem _)
  rw [List.getElem_set_of_ne (by omega)]
  simpa using other

section EnsureCached

variable {s : State} {key : I32} {t : Nat}

theorem ensureCached_of_hit {j : Nat} (h : lookup s.strm.cache key = some j) : s.ensureCached key t = (j, s) := by
  rw [State.ensureCached, h]

theorem ensureCached_of_miss (h : lookup s.strm.cache key = none) :
    s.ensureCached key t = (s.strm.writeCursor.toNat, s.fill key t) := by
  rw [State.ensureCached, h]

theorem fill_cache : (s.fill key t).strm.cache = s.strm.cache.set s.strm.writeCursor.toNat
    (filledSlot key (s.sectorRead (trackAt s.layout t).stream (missAddr key (trackAt s.layout t))).bytes) := rfl

theorem fill_writeCursor_toNat : (s.fill key t).strm.writeCursor.toNat = (s.strm.writeCursor.toNat + 1) % 50 := by
  have slots : Config.cacheSlots = 50 := rfl
  simp only [State.fill, State.note, BitVec.toNat_ofNat, slots]
  omega

theorem fill_reads : (s.fill key t).out.reads =
    s.out.reads ++ [{ stream := (trackAt s.layout t).stream, addr := missAddr key (trackAt s.layout t) }] := rfl

/-- Either way the sector is resident afterwards. -/
theorem lookup_ensureCached (hc : CacheOk s.strm) :
    lookup (s.ensureCached key t).2.strm.cache key = some (s.ensureCached key t).1 := by
  cases h : lookup s.strm.cache key with
  | some j => rwa [ensureCached_of_hit h]
  | none =>
    rw [ensureCached_of_miss h]
    exact lookup_set_of_lookup_none h (by rw [hc.slots]; exact hc.cursor) rfl rfl

end EnsureCached

/-- Every sample of a filled slot is two bytes of the read, low byte first. -/
theorem filledSlot_buf_getElem? (key : I32) {bytes : List Byte} (hlen : bytes.length = 2352) {i : Nat} (hlt : i < 1176) :
    ∃ lo hi, bytes[2 * i]? = some lo ∧ bytes[2 * i + 1]? = some hi ∧ (filledSlot key bytes).buf[i]? = some (hi ++ lo) := by
  have low := List.getElem?_eq_getElem (l := bytes) (i := 2 * i) (by omega)
  have high := List.getElem?_eq_getElem (l := bytes) (i := 2 * i + 1) (by omega)
  exact ⟨_, _, low, high, samplesOf_getElem? bytes i _ _ low high⟩

/-! ## PREPARE -/

theorem setFilling_eq (m : Streamer) (f : List U32) : m.setFilling f = { m with
    frame0 := if m.activeIdx = 0#1 then m.frame0 else f
    frame1 := if m.activeIdx = 0#1 then f else m.frame1 } := by
  rw [Streamer.setFilling]
  split_ifs <;> rfl

theorem afterPrepare_eq (m : Streamer) : m.afterPrepare = { m with
    phase := if m.drainPending then .waitClock else .waitDrain
    clockEdges := if m.drainPending then 0#2 else m.clockEdges
    drainPending := false } := by
  rw [Streamer.afterPrepare]
  split_ifs with h
  · rfl
  · rw [← Bool.eq_false_iff.mpr h]

theorem exec_strmPrepare {s : State} (hhalt : s.halted = false) (hphase : s.strm.phase = .prepare)
    (himage : s.sharedImage = s.strm.loadedImage) : exec .strmPrepare s = .next s.prepare := if_pos ⟨hhalt, hphase, himage⟩

section Prepare

variable {s : State} {key : I32} {k : Nat} (hkey : keyOf s.params s.sharedSector = key) (hk : s.trackSource s.sharedSector = k)
include hkey hk

theorem prepare_reads : s.prepare.out.reads = (s.ensureCached key k).2.out.reads := by rw [← hkey, ← hk]; rfl

/-- The streamer after PREPARE, with `c` the slot that holds the sector's key. -/
theorem prepare_strm {c : Slot} (hc : (s.ensureCached key k).2.strm.cache[(s.ensureCached key k).1]? = some c) :
    s.prepare.strm = { s.strm with
      cache := (s.ensureCached key k).2.strm.cache
      writeCursor := (s.ensureCached key k).2.strm.writeCursor
      preparedSector := s.sharedSector
      frame0 := if s.strm.activeIdx = 0#1 then s.strm.frame0 else frameWords s s.sharedSector k c.buf
      frame1 := if s.strm.activeIdx = 0#1 then frameWords s s.sharedSector k c.buf else s.strm.frame1
      phase := if s.strm.drainPending then .waitClock else .waitDrain
      clockEdges := if s.strm.drainPending then 0#2 else s.strm.clockEdges
      drainPending := false } := by
  simp only [State.prepare, hkey, hk, setFilling_eq, afterPrepare_eq, Streamer.slotBuf,
    List.getD_eq_getElem?_getD, hc, Option.getD_some]
  cases h : lookup s.strm.cache key with
  | some j => rw [ensureCached_of_hit h]
  | none => rw [ensureCached_of_miss h, fill_eq]

end Prepare

/-- Settles O36: the streamer after PREPARE, field by field, and the words of the filling frame. -/
theorem prepareFillsTheFrame : Obligations.PrepareFillsTheFrame := by
  intro s key k hinv _ hhalt hphase himage hkey hk
  have track : s.trackSource s.sharedSector = k := hk.symm
  obtain ⟨c, hslot, hvalid, hckey, hbuf⟩ := ensureCached_slot s key k hinv.cache
  have strm := prepare_strm (keyOf_eq hinv.params hkey) track hslot
  have words {i : Nat} (hi : i < 1176) := frameWords_getElem? s s.sharedSector k c.buf hbuf hinv.key hi
  refine ⟨s.prepare, _, c, frameWords s s.sharedSector k c.buf, if s.strm.activeIdx = 0#1 then s.strm.frame0 else s.strm.frame1,
    exec_strmPrepare hhalt hphase himage, by rwa [strm], hvalid, hckey, by rw [strm], ?_,
    frameWords_length s _ k c.buf hbuf hinv.key, fun i hi => ⟨c.buf.getD i 0#16, ?_, words hi⟩,
    fun hdrain => ?_, fun hdrain => ?_, by rw [strm], by rw [strm], by rw [strm], by rw [strm], prepare_eq s⟩
  · rw [strm]
    split_ifs <;> exact ⟨rfl, rfl, rfl⟩
  · simp [hbuf, hi]
  · simp [strm, hdrain]
  · simp [strm, hdrain]

/-- Settles O37: PREPARE reads storage and fills a slot where making the key resident does, on a miss. -/
theorem prepareCachesTheSector : Obligations.PrepareCachesTheSector := by
  intro s key k hinv _ hhalt hphase himage hkey hk
  have keyed := keyOf_eq hinv.params hkey
  have track : s.trackSource s.sharedSector = k := hk.symm
  obtain ⟨c, hslot, -⟩ := ensureCached_slot s key k hinv.cache
  have strm := prepare_strm keyed track hslot
  have reads := prepare_reads keyed track
  refine ⟨s.prepare, (s.ensureCached key k).1, exec_strmPrepare hhalt hphase himage, ?_, fun hhit => ?_, fun hmiss => ?_⟩
  · rw [strm]
    exact lookup_ensureCached hinv.cache
  · obtain ⟨j, hj⟩ := Option.ne_none_iff_exists'.mp hhit
    rw [strm, reads, ensureCached_of_hit hj]
    exact ⟨rfl, rfl, rfl⟩
  · have cursor : s.strm.writeCursor.toNat < s.strm.cache.length := by rw [hinv.cache.slots]; exact hinv.cache.cursor
    rw [strm, reads, ensureCached_of_miss hmiss, fill_cache, fill_reads]
    exact ⟨rfl, fill_writeCursor_toNat (key := key) (t := k), fun _ hi => List.getElem?_set_ne hi.symm,
      _, _, _, rfl, rfl, rfl, List.getElem?_set_self cursor, rfl, rfl, by simp [filledSlot, sectorRead_length],
      fun _ => filledSlot_buf_getElem? key (sectorRead_length ..)⟩

/-! ## SWAP -/

theorem exec_strmSwap {s : State} (hhalt : s.halted = false) (hphase : s.strm.phase = .waitClock)
    (hedges : s.strm.clockEdges = 2#2) : exec .strmSwap s = .next { s with strm := s.strm.swap } := if_pos ⟨hhalt, hphase, hedges⟩

theorem swap_activeIdx_ne (m : Streamer) : m.swap.activeIdx ≠ m.activeIdx := by
  have other : ∀ b : BitVec 1, 1#1 - b ≠ b := by decide
  exact other m.activeIdx

/-- Settles O38: of a one-bit index, the other one is `1 - activeIdx`. -/
theorem swapPublishesTheFrame : Obligations.SwapPublishesTheFrame :=
  fun s hhalt hphase hedges => ⟨_, exec_strmSwap hhalt hphase hedges, rfl, swap_activeIdx_ne s.strm⟩

end Sys2Proof.Machine
end

