-- ==== Sys2Proof/Proofs/Position.lean ====
section
/-! SUPPORT. Sys2Proof/Proofs/Position.lean: what an operation of each class can change, the CTRL events by phase, the injected effects
(R249 to R255), the CTRL iteration and its branches (R230 to R241), and the spiral (R233, R234). -/

namespace Sys2Proof.Machine

/-! ## What an operation of each class can change -/

/-- An environment event changes the queue, the consumed flag, the inputs and the streamer's side of the handshakes. -/
theorem environment_frame {i : Instr} {s t : State} (hi : opClass i = .environment) (hne : i ≠ .poweron) (h : exec i s = .next t) :
    t = { s with
      cmd := { s.cmd with cmdQueue := t.cmd.cmdQueue }, subq := { s.subq with consumed := t.subq.consumed }
      inputs := t.inputs, strm := t.strm, old := t.old, out := t.out } := by
  cases i with
  | envCmd | envOverride | envCtlmode | envDrained | envSubqTaken => cases h; rfl
  | envImage n =>
    simp only [exec, execEnvImage] at h
    split at h <;> cases h <;> rfl
  | envWclk v =>
    simp only [exec, execEnvWclk] at h
    split at h <;> cases h <;> rfl
  | poweron => exact absurd rfl hne
  | _ => cases hi

/-- A STRM event changes the streamer, the installed layout and the outputs. -/
theorem strm_frame {i : Instr} {s t : State} (hi : opClass i = .strm) (h : exec i s = .next t) :
    t = { s with strm := t.strm, layout := t.layout, out := t.out } := by
  cases i with
  | strmPrepare =>
    simp only [exec, execStrmPrepare] at h
    split at h <;> cases h
    · rw [prepare_eq]
    · rfl
  | strmSwap =>
    simp only [exec, execStrmSwap] at h
    split at h <;> cases h <;> rfl
  | strmReload =>
    simp only [exec, execStrmReload] at h
    split at h <;> cases h <;> rfl
  | _ => cases hi

theorem probe_next {α : Type} {operand : Option α} {s t : State} {f : α → ProbeResult} (h : probe operand s f = .next t) :
    ∃ r, t = s.answer r := by
  cases operand with
  | some a => exact ⟨f a, (Host.Outcome.next.inj h).symm⟩
  | none => cases h

theorem ite_answer_next {c : Prop} [Decidable c] {s t : State} {r : ProbeResult} {e : Refusal}
    (h : (if c then .next (s.answer r) else .refused e : Host.Outcome State Fault Refusal) = .next t) : ∃ r, t = s.answer r := by
  split_ifs at h
  exact ⟨r, (Host.Outcome.next.inj h).symm⟩

/-- A probe that completes gives a result and does nothing else. -/
theorem probe_frame {i : Instr} {s t : State} (hi : opClass i = .probe) (h : exec i s = .next t) : ∃ r, t = s.answer r := by
  cases i with
  | pKeygen => exact ⟨_, (Host.Outcome.next.inj h).symm⟩
  | pIsData =>
    simp only [exec, execPIsData] at h
    split at h
    · exact ite_answer_next h
    · cases h
  | pSubq =>
    simp only [exec, execPSubq] at h
    split at h
    · split at h
      · exact ⟨_, (Host.Outcome.next.inj h).symm⟩
      · cases h
    · cases h
  | pScramble =>
    simp only [exec, execPScramble] at h
    split at h
    · exact ite_answer_next h
    · cases h
  | pLoad | pTrackOf | pMsf | pBcd | pCrc | pPack | pCondition | pSectorOfTrack | pSectorsPerTrack | pLookup => exact probe_next h
  | _ => cases hi

theorem inject_of_running {s : State} (h : s.halted = false) (e : Effect) : inject s e = .next (s.applyEffect e) := by
  simp [inject, h]

theorem inject_next {s t : State} {e : Effect} (h : inject s e = .next t) : t = s ∨ t = s.applyEffect e := by
  unfold inject at h
  split at h
  · exact .inl (Host.Outcome.next.inj h).symm
  · exact .inr (Host.Outcome.next.inj h).symm

/-- An `X_` operation that completes changes nothing or applies one effect, which is no `SensWrite` but for `X_SENS`. -/
theorem effect_next {i : Instr} {s t : State} (hi : opClass i = .effect) (h : exec i s = .next t) :
    t = s ∨ ∃ e, t = s.applyEffect e ∧ ∀ q v, e = .sensWrite q v → i = .xSens q v := by
  have injected {e : Effect} (he : ∀ q v, e = .sensWrite q v → i = .xSens q v) (h : inject s e = .next t) :
      t = s ∨ ∃ e, t = s.applyEffect e ∧ ∀ q v, e = .sensWrite q v → i = .xSens q v :=
    (inject_next h).imp id fun h => ⟨e, h, he⟩
  cases i with
  | xSled | xMode | xSoct => exact injected (by rintro q v ⟨⟩) h
  | xSens q v => exact injected (by rintro q v ⟨⟩; rfl) h
  | xSeek dir =>
    simp only [exec, execXSeek] at h
    split at h
    · exact injected (by rintro q v ⟨⟩) h
    · cases h
  | xClicks n =>
    simp only [exec, execXClicks] at h
    split at h
    · cases h
    · exact injected (by rintro q v ⟨⟩) h
  | _ => cases hi

/-! ## What a CTRL event does, by phase -/

/-- R331: a halted CORE's CTRL events change nothing. -/
theorem exec_ctrl_of_halted {i : Instr} {s : State} (hi : opClass i = .ctrl) (h : s.halted = true) : exec i s = .next s := by
  cases i with
  | ctrlIter | ctrlLatch | ctrlChain | ctrlSoct | ctrlSled | ctrlSeekdone | ctrlPlay | ctrlAuthchk | ctrlAuthstep => exact if_pos h
  | _ => cases hi

section Running

variable {s : State} (hrun : s.halted = false)
include hrun

theorem exec_ctrlLatch : exec .ctrlLatch s = .next (if s.ctrlPhase = .top then s.latchService else s) := by
  cases hp : s.ctrlPhase <;> simp [exec, execCtrlLatch, hrun, hp]

theorem exec_ctrlChain : exec .ctrlChain s = .next (if s.ctrlPhase = .top then s.beginIteration.chain else s) := by
  cases hp : s.ctrlPhase <;> simp [exec, execCtrlChain, hrun, hp]

theorem exec_ctrlAuthchk : exec .ctrlAuthchk s = .next (if s.ctrlPhase = .top then s.authCheck else s) := by
  cases hp : s.ctrlPhase <;> simp [exec, execCtrlAuthchk, hrun, hp]

theorem exec_ctrlAuthstep : exec .ctrlAuthstep s = .next (if s.ctrlPhase = .auth then s.authStep else s) := by
  cases hp : s.ctrlPhase <;> simp [exec, execCtrlAuthstep, hrun, hp]

theorem exec_ctrlSled :
    exec .ctrlSled s = .next (if s.ctrlPhase = .top ∧ s.branch = .sled then s.beginIteration.sled else s) := by
  cases hp : s.ctrlPhase with
  | top => by_cases hb : s.branch = .sled <;> simp [exec, execCtrlSled, onlyBranch, State.runBranch, hrun, hp, hb]
  | startup | soctSettle | playDelay | auth => simp [exec, execCtrlSled, hrun, hp]

theorem exec_ctrlSeekdone :
    exec .ctrlSeekdone s = .next (if s.ctrlPhase = .top ∧ s.branch = .seekdone then s.beginIteration.seekdone else s) := by
  cases hp : s.ctrlPhase with
  | top => by_cases hb : s.branch = .seekdone <;> simp [exec, execCtrlSeekdone, onlyBranch, State.runBranch, hrun, hp, hb]
  | startup | soctSettle | playDelay | auth => simp [exec, execCtrlSeekdone, hrun, hp]

theorem exec_ctrlSoct_top (hp : s.ctrlPhase = .top) :
    exec .ctrlSoct s = .next (if s.branch = .soct then s.beginIteration.soctBegin else s) := by
  by_cases hb : s.branch = .soct <;> simp [exec, execCtrlSoct, onlyBranch, State.runBranch, hrun, hp, hb]

theorem exec_ctrlSoct_soctSettle {d : Nat} (hp : s.ctrlPhase = .soctSettle d) :
    exec .ctrlSoct s = .next (if d ≤ s.now.toNat then s.beginIteration.soctFinish else s) := by
  by_cases hd : d ≤ s.now.toNat <;> simp [exec, execCtrlSoct, hrun, hp, hd]

theorem exec_ctrlSoct_of_other (hp : s.ctrlPhase ≠ .top ∧ ∀ d, s.ctrlPhase ≠ .soctSettle d) : exec .ctrlSoct s = .next s := by
  cases h : s.ctrlPhase <;> simp_all [exec, execCtrlSoct]

theorem exec_ctrlPlay_top (hp : s.ctrlPhase = .top) :
    exec .ctrlPlay s = .next (if s.branch = .play then s.beginIteration.play else s) := by
  by_cases hb : s.branch = .play <;> simp [exec, execCtrlPlay, onlyBranch, State.runBranch, hrun, hp, hb]

theorem exec_ctrlPlay_playDelay {d : Nat} (hp : s.ctrlPhase = .playDelay d) :
    exec .ctrlPlay s = if d ≤ s.now.toNat then s.beginIteration.subqTx else .next s := by
  simp [exec, execCtrlPlay, hrun, hp]

theorem exec_ctrlPlay_of_other (hp : s.ctrlPhase ≠ .top ∧ ∀ d, s.ctrlPhase ≠ .playDelay d) : exec .ctrlPlay s = .next s := by
  cases h : s.ctrlPhase <;> simp_all [exec, execCtrlPlay]

theorem exec_ctrlIter_top (hp : s.ctrlPhase = .top) : exec .ctrlIter s = .next s.beginIteration.topIteration := by
  simp [exec, execCtrlIter, hrun, hp]

theorem exec_ctrlIter_soctSettle {d : Nat} (hp : s.ctrlPhase = .soctSettle d) :
    exec .ctrlIter s = .next (if d ≤ s.now.toNat then s.beginIteration.soctFinish.authCheck else s) := by
  by_cases hd : d ≤ s.now.toNat <;> simp [exec, execCtrlIter, hrun, hp, hd]

theorem exec_ctrlIter_playDelay {d : Nat} (hp : s.ctrlPhase = .playDelay d) :
    exec .ctrlIter s = if d ≤ s.now.toNat then authCheckAfter s.beginIteration.subqTx else .next s := by
  simp [exec, execCtrlIter, hrun, hp]

theorem exec_ctrlIter_auth (hp : s.ctrlPhase = .auth) : exec .ctrlIter s = .next s.beginIteration.authStep := by
  simp [exec, execCtrlIter, hrun, hp]

theorem exec_ctrlIter_startup (hp : s.ctrlPhase = .startup) : exec .ctrlIter s = .next s := by
  simp [exec, execCtrlIter, hrun, hp]

end Running

/-! ## What the parts of CTRL keep, a CTRL event keeps -/

/-- Every part of a CTRL event but the transmission keeps `P`. -/
structure KeptByCtrl (P : State → Prop) : Prop where
  begin  : ∀ s, P s → P s.beginIteration
  latch  : ∀ s, P s → P s.latchService
  branch : ∀ s b, P s → P (s.runBranch b)
  finish : ∀ s, P s → P s.soctFinish
  check  : ∀ s, P s → P s.authCheck
  step   : ∀ s, P s → P s.authStep

section KeptByCtrl

variable {P : State → Prop} (hP : KeptByCtrl P) {s t : State}
include hP

theorem KeptByCtrl.topIteration (hs : P s) : P s.topIteration := by
  have chained : P s.latchService.chain := hP.branch _ _ (hP.latch s hs)
  unfold State.topIteration
  dsimp only
  split
  · exact hP.check _ chained
  · exact chained

theorem KeptByCtrl.authCheckAfter {o : Host.Outcome State Fault Refusal} (ho : ∀ u, o = .next u → P u)
    (h : authCheckAfter o = .next t) : P t := by
  cases o with
  | next u => cases h; exact hP.check u (ho u rfl)
  | fault r => cases h
  | refused r => cases h

/-- A CTRL event keeps what its parts keep, where its transmission, if it has one, keeps it too. -/
theorem KeptByCtrl.exec {i : Instr} (hi : opClass i = .ctrl) (h : exec i s = .next t) (hs : P s)
    (htransmit : ∀ d u, (i = .ctrlPlay ∨ i = .ctrlIter) → s.ctrlPhase = .playDelay d → d ≤ s.now.toNat →
      s.beginIteration.subqTx = .next u → P u) : P t := by
  have begun : P s.beginIteration := hP.begin s hs
  have becomes {u : State} (hu : Machine.exec i s = .next u) (hPu : P u) : P t := by
    obtain rfl := Host.Outcome.next.inj (hu.symm.trans h)
    exact hPu
  have unless_unchanged {c : Prop} [Decidable c] {u : State} (hPu : P u) : P (if c then u else s) :=
    iteInduction (fun _ => hPu) (fun _ => hs)
  rcases Bool.eq_false_or_eq_true s.halted with hhalt | hrun
  · exact becomes (exec_ctrl_of_halted hi hhalt) hs
  cases i with
  | ctrlLatch => exact becomes (exec_ctrlLatch hrun) (unless_unchanged (hP.latch s hs))
  | ctrlChain => exact becomes (exec_ctrlChain hrun) (unless_unchanged (hP.branch _ _ begun))
  | ctrlAuthchk => exact becomes (exec_ctrlAuthchk hrun) (unless_unchanged (hP.check s hs))
  | ctrlAuthstep => exact becomes (exec_ctrlAuthstep hrun) (unless_unchanged (hP.step s hs))
  | ctrlSled => exact becomes (exec_ctrlSled hrun) (unless_unchanged (hP.branch _ .sled begun))
  | ctrlSeekdone => exact becomes (exec_ctrlSeekdone hrun) (unless_unchanged (hP.branch _ .seekdone begun))
  | ctrlSoct =>
    cases hp : s.ctrlPhase with
    | top => exact becomes (exec_ctrlSoct_top hrun hp) (unless_unchanged (hP.branch _ .soct begun))
    | soctSettle d => exact becomes (exec_ctrlSoct_soctSettle hrun hp) (unless_unchanged (hP.finish _ begun))
    | startup | playDelay | auth => exact becomes (exec_ctrlSoct_of_other hrun (by simp [hp])) hs
  | ctrlPlay =>
    cases hp : s.ctrlPhase with
    | top => exact becomes (exec_ctrlPlay_top hrun hp) (unless_unchanged (hP.branch _ .play begun))
    | playDelay d =>
      rw [exec_ctrlPlay_playDelay hrun hp] at h
      split_ifs at h with hd
      · exact htransmit d t (.inl rfl) hp hd h
      · cases h; exact hs
    | startup | soctSettle | auth => exact becomes (exec_ctrlPlay_of_other hrun (by simp [hp])) hs
  | ctrlIter =>
    cases hp : s.ctrlPhase with
    | top => exact becomes (exec_ctrlIter_top hrun hp) (hP.topIteration begun)
    | soctSettle d =>
      exact becomes (exec_ctrlIter_soctSettle hrun hp) (unless_unchanged (hP.check _ (hP.finish _ begun)))
    | playDelay d =>
      rw [exec_ctrlIter_playDelay hrun hp] at h
      split_ifs at h with hd
      · exact hP.authCheckAfter (fun u => htransmit d u (.inr rfl) hp hd) h
      · cases h; exact hs
    | auth => exact becomes (exec_ctrlIter_auth hrun hp) (hP.step _ begun)
    | startup => exact becomes (exec_ctrlIter_startup hrun hp) hs
  | _ => cases hi

end KeptByCtrl

theorem exec_cmd8 (b : Byte) (s : State) :
    exec (.cmd8 b) s = exec .ctrlLatch { s with cmd := { s.cmd with cmdQueue := s.cmd.cmdQueue ++ [b] } } := rfl

/-! ## Injected effects (R250 to R254) -/

/-- Settles O16: outside a halt an `X_` operation applies its effect. -/
theorem injectedEffects : Obligations.InjectedEffects := by
  intro s d dir target m n hrun
  have injected (e : Effect) := inject_of_running hrun e
  refine ⟨injected _, fun htarget => ?_, injected _, fun hn => ?_, injected _⟩
  · simp only [exec, execXSeek, htarget, injected]; rfl
  · simp only [exec, execXClicks, if_neg hn, injected]; rfl

/-! ## The focus flag (R255) -/

theorem sensBit_setSensBit_of_ne {v : U16} {q k : BitVec 4} {b : Bool} (h : k ≠ q) : sensBit (setSensBit v q b) k = sensBit v k := by
  rw [sensBit_setSensBit, if_neg h]

theorem sensBit_toggleSensBit_of_ne {v : U16} {q k : BitVec 4} (h : k ≠ q) : sensBit (toggleSensBit v q) k = sensBit v k := by
  rw [sensBit_toggleSensBit, if_neg h]

/-- The parameters are `p` and the focus flag is `b`. -/
def FocusIs (p : Params) (b : Bool) (s : State) : Prop := s.params = p ∧ sensBit s.cmd.sens p.sensFok = b

section Focus

variable {p : Params} {b : Bool} {s : State}

theorem FocusIs.applyEffect (hp : p.Ok) {e : Effect} (he : ∀ v, e ≠ .sensWrite p.sensFok v) (h : FocusIs p b s) :
    FocusIs p b (s.applyEffect e) := by
  obtain ⟨rfl, hb⟩ := h
  obtain ⟨-, focus_ne_busy, -⟩ := hp.sensCodes
  refine ⟨by rw [applyEffect_eq], hb ▸ ?_⟩
  cases e with
  | sledSet | modeSet | clickCountSet | soctRequest => rfl
  | autoseekStart target dir => exact sensBit_setSensBit_of_ne focus_ne_busy
  | sensWrite q v => exact sensBit_setSensBit_of_ne (by rintro rfl; exact he v rfl)

theorem FocusIs.latchService (hp : p.Ok) (hrows : ∀ r ∈ p.decodeLatch, ∀ v, .sensWrite p.sensFok v ∉ r.effects)
    (h : FocusIs p b s) : FocusIs p b s.latchService := by
  refine serviceQueue_keeps (fun s q h => h) (fun s c h => ?_) s _ _ h
  refine applyEffects_keeps (P := FocusIs p b) (fun u e he hu => hu.applyEffect hp ?_) _ h
  rintro v rfl
  obtain ⟨r, hr, hmem⟩ := mem_decodeLatch he
  exact hrows r (h.1 ▸ hr) v hmem

theorem FocusIs.sledClick (hp : p.Ok) (h : FocusIs p b s) : FocusIs p b s.sledClick := by
  obtain ⟨rfl, hb⟩ := h
  obtain ⟨focus_ne_click, -⟩ := hp.sensCodes
  unfold State.sledClick
  split
  · exact ⟨rfl, hb ▸ sensBit_toggleSensBit_of_ne focus_ne_click⟩
  · exact ⟨rfl, hb⟩

theorem FocusIs.runBranch (hp : p.Ok) (c : Branch) (h : FocusIs p b s) : FocusIs p b (s.runBranch c) := by
  cases c with
  | soct | skip => exact h
  | play => rw [State.runBranch, State.play]; exact iteInduction (fun _ => h) (fun _ => h)
  | sled =>
    rw [State.runBranch, State.sled]
    exact iteInduction (fun _ => h) (fun _ => FocusIs.sledClick (s := { s with motion := { s.motion with lastMotionTime := s.now } }) hp h)
  | seekdone =>
    rw [State.runBranch, State.seekdone]
    refine iteInduction (fun _ => h) (fun _ => ?_)
    obtain ⟨rfl, hb⟩ := h
    obtain ⟨focus_ne_click, focus_ne_busy, -⟩ := hp.sensCodes
    exact ⟨rfl, hb ▸ (sensBit_setSensBit_of_ne focus_ne_busy).trans (sensBit_toggleSensBit_of_ne focus_ne_click)⟩

theorem FocusIs.subqTx {t : State} (h : FocusIs p b s) (ht : s.subqTx = .next t) : FocusIs p b t := by
  obtain ⟨r, -, rfl⟩ := subqTx_next ht
  exact h

theorem keptByCtrl_focusIs (hp : p.Ok) (hrows : ∀ r ∈ p.decodeLatch, ∀ v, .sensWrite p.sensFok v ∉ r.effects) :
    KeptByCtrl (FocusIs p b) where
  begin _ h := h
  latch _ h := h.latchService hp hrows
  branch _ c h := h.runBranch hp c
  finish _ h := h
  check s h := by rw [authCheck_eq]; exact h
  step s h := by rw [authStep_eq]; exact h

end Focus

/-- Settles O17: class by class, no part of an operation but `SensWrite` writes the focus flag. -/
theorem sensWriteOnlyChangesFocus : Obligations.SensWriteOnlyChangesFocus := by
  refine ⟨fun s q v hrun => ⟨_, inject_of_running hrun (.sensWrite q v), rfl, fun k => sensBit_setSensBit _ q k v⟩, ?_⟩
  intro i s t hp h hpoweron hsens hrows
  have before : FocusIs s.params (sensBit s.cmd.sens s.params.sensFok) s := ⟨rfl, rfl⟩
  have ctrl := keptByCtrl_focusIs (b := sensBit s.cmd.sens s.params.sensFok) hp hrows
  cases hi : opClass i with
  | environment => rw [environment_frame hi hpoweron h]
  | strm => rw [strm_frame hi h]
  | probe => obtain ⟨r, rfl⟩ := probe_frame hi h; rfl
  | effect =>
    obtain rfl | ⟨e, rfl, he⟩ := effect_next hi h
    · rfl
    · exact (before.applyEffect hp fun v hv => hsens _ v (he _ v hv)).2
  | ctrl => exact (ctrl.exec hi h before fun d u _ _ _ hu => FocusIs.subqTx (s := s.beginIteration) before hu).2
  | commandByte =>
    cases i with
    | cmd8 c =>
      rw [exec_cmd8] at h
      exact (ctrl.exec rfl h before (by simp)).2
    | _ => cases hi

/-! ## The CTRL iteration (R230) -/

theorem applyEffects_setOld (s : State) (es : List Effect) (o : OldShared) :
    ({ s with old := o } : State).applyEffects es = { s.applyEffects es with old := o } := by
  induction es generalizing s with
  | nil => rfl
  | cons e rest ih =>
    have head : ({ s with old := o } : State).applyEffect e = { s.applyEffect e with old := o } := by cases e <;> rfl
    exact (congrArg (State.applyEffects · rest) head).trans (ih _)

theorem serviceQueue_setOld (s : State) (k : Option Nat) (q : List Byte) (o : OldShared) :
    ({ s with old := o } : State).serviceQueue k q = { s.serviceQueue k q with old := o } := by
  induction q generalizing s k with
  | nil => rfl
  | cons b rest ih =>
    have head : ({ s with old := o } : State).serviceByte b = { s.serviceByte b with old := o } :=
      applyEffects_setOld { s with cmd := { s.cmd with latch := latchShift s.cmd.latch b, currentSens := b.extractLsb' 4 4 } } _ o
    rcases k with _ | _ | k
    · simp only [State.serviceQueue, head, ih]
    · rfl
    · simp only [State.serviceQueue, head, ih]

/-- A latch service neither reads nor writes what the start of an iteration records. -/
theorem beginIteration_latchService (s : State) : s.latchService.beginIteration = s.beginIteration.latchService := by
  have record : s.beginIteration.latchService = { s.latchService with old := s.beginIteration.old } := serviceQueue_setOld ..
  rw [record, State.beginIteration, State.latchService, serviceQueue_eq]; rfl

theorem chain_halted (s : State) : s.chain.halted = s.halted := by rw [State.chain, runBranch_eq]

/-- Settles O23: each phase's iteration, against the events of its parts; the record for stale reads is made once. -/
theorem iterationIsItsParts : Obligations.IterationIsItsParts := by
  refine ⟨fun s => exec_ctrl_of_halted rfl, fun s hrun => ⟨fun htop => ?_, fun d hsettle hd => ?_, fun d hdelay hd => ?_,
    fun d hwait hd => ?_, fun hauth => ?_, exec_ctrlIter_startup hrun⟩⟩
  · have latchRun : s.latchService.halted = false := by rwa [State.latchService, serviceQueue_eq]
    have latchTop : s.latchService.ctrlPhase = .top := by rwa [State.latchService, serviceQueue_eq]
    have chainRun : s.latchService.beginIteration.chain.halted = false := (chain_halted _).trans latchRun
    rw [exec_ctrlIter_top hrun htop, exec_ctrlLatch hrun, if_pos htop, thenExec, exec_ctrlChain latchRun, if_pos latchTop, thenExec,
      exec_ctrlAuthchk chainRun, beginIteration_latchService]
    rfl
  · rw [exec_ctrlIter_soctSettle hrun hsettle, if_pos hd, exec_ctrlSoct_soctSettle hrun hsettle, if_pos hd, thenExec,
      exec_ctrlAuthchk (s := s.beginIteration.soctFinish) hrun]
    rfl
  · rw [exec_ctrlIter_playDelay hrun hdelay, if_pos hd, exec_ctrlPlay_playDelay hrun hdelay, if_pos hd]
    cases htx : s.beginIteration.subqTx with
    | next t =>
      obtain ⟨r, -, rfl⟩ := subqTx_next htx
      rw [thenExec, exec_ctrlAuthchk (s := { s.beginIteration.transmit r with ctrlPhase := .top }) hrun]
      rfl
    | fault r => rfl
    | refused r => rfl
  · obtain hsettle | hdelay := hwait
    · rw [exec_ctrlIter_soctSettle hrun hsettle, if_neg (by omega)]
    · rw [exec_ctrlIter_playDelay hrun hdelay, if_neg (by omega)]
  · rw [exec_ctrlIter_auth hrun hauth, exec_ctrlAuthstep (s := s.beginIteration) hrun, if_pos ((State.beginIteration_ctrlPhase s).trans hauth)]

/-! ## The SOCT service (R236) -/

/-- A branch body that leaves the parameters alone ends with CLAMP's values of its exact ones (R235). -/
theorem finishAt_clamped_of_params {s : State} {p : Params} {sector track update : Int} (hp : p.Ok) (hs : s.params = p) :
    ClampedPosition p sector track update
      (s.finishAt { sector := sector, track := track, sectorForTrackUpdate := update }).pos := by
  subst hs
  exact finishAt_clamped s { sector := sector, track := track, sectorForTrackUpdate := update } hp

theorem branch_eq_soct {s : State} (h : s.motion.soctPending = true) : s.branch = .soct := by
  simp [State.branch, h]

/-- A position in range is not moved by the end of a settle delay. -/
theorem soctFinish_of_positionOk {s : State} (h : PositionOk s.params s.pos) : s.soctFinish = { s with
    motion := { s.motion with soctPending := false, soctEnabled := false }, ctrlPhase := .top } :=
  congrArg (fun u : State => { u with ctrlPhase := .top })
    (finishAt_exactPos { s with motion := { s.motion with soctPending := false, soctEnabled := false } } h)

/-- Settles O25: the settle delay's beginning, its wait and its end, which is `SOCT_FINISH`. -/
theorem soctService : Obligations.SoctService := by
  refine fun s hp hrun => ⟨fun htop hpending => ?_, fun d hsettle hd => ?_, fun d hsettle hd => ⟨s.beginIteration.soctFinish, ?_, ?_,
    fun hpos => ?_, rfl, rfl, rfl⟩⟩
  · rw [exec_ctrlSoct_top hrun htop, if_pos (branch_eq_soct hpending)]; rfl
  · rw [exec_ctrlSoct_soctSettle hrun hsettle, if_neg (by omega)]
  · rw [exec_ctrlSoct_soctSettle hrun hsettle, if_pos hd]
  · exact finishAt_clamped_of_params hp (by rfl)
  · rw [soctFinish_of_positionOk (s := s.beginIteration) hpos]
    exact ⟨rfl, rfl⟩

/-! ## A sled step (R237) -/

theorem branch_eq_sled {s : State} (h1 : s.motion.soctPending = false) (h2 : s.motion.sledDirection ≠ .stop) : s.branch = .sled := by
  simp [State.branch, h1, h2]

theorem limitOut_eq (s : State) : s.limitOut = decide (3000 < s.pos.sector.toInt) := rfl

theorem sledTrack_eq {d : SledDir} (t : Int) : sledTrack d t = t + (if d = .forward then 1 else -1) := by
  cases d <;> rfl

theorem sledClick_eq_ite (s : State) : s.sledClick = { s with
    motion := { s.motion with
      clickAccum := if s.motion.tracksPerClick ≤ s.motion.clickAccum + 1#32 then 0#32 else s.motion.clickAccum + 1#32 }
    cmd := { s.cmd with
      sens := if s.motion.tracksPerClick ≤ s.motion.clickAccum + 1#32 then toggleSensBit s.cmd.sens s.params.sensClick
        else s.cmd.sens } } := by
  unfold State.sledClick
  split_ifs <;> rfl

theorem sled_of_waiting {s : State} (h : s.since s.motion.lastMotionTime < s.params.trackMoveIntervalUs) : s.sled = s := if_pos h

/-- The sled step once its interval has passed, to track `k`. -/
theorem sled_of_elapsed {s : State} (h : s.params.trackMoveIntervalUs ≤ s.since s.motion.lastMotionTime)
    {k : Int} (hk : k = s.pos.track.toInt + (if s.motion.sledDirection = .forward then 1 else -1)) :
    s.sled = ({ s with motion := { s.motion with lastMotionTime := s.now } } : State).sledClick.finishAt
      { sector := sectorOfTrackInt k, track := k, sectorForTrackUpdate := sectorOfTrackInt k } := by
  rw [State.sled, if_neg (by omega), sledTrack_eq, hk]

/-- Settles O26: the wait, and the step as click, exact position and CLAMP. -/
theorem sledStep : Obligations.SledStep := by
  intro s hp hrun htop hsoct hsled
  rw [exec_ctrlSled hrun, if_pos ⟨htop, branch_eq_sled hsoct hsled⟩]
  refine ⟨fun hwait => by rw [sled_of_waiting (s := s.beginIteration) hwait], fun helapsed => ?_⟩
  have step := sled_of_elapsed (s := s.beginIteration) helapsed rfl
  rw [step, sledClick_eq_ite]
  refine ⟨_, rfl, fun k hk => ?_, limitOut_eq _, rfl, fun hclick => ⟨if_pos hclick, fun q => ?_⟩,
    fun hno => ⟨if_neg (BitVec.not_le.mpr hno), if_neg (BitVec.not_le.mpr hno)⟩, rfl, rfl, rfl, rfl⟩
  · subst hk
    exact finishAt_clamped_of_params hp (by rfl)
  · exact (congrArg (sensBit · q) (if_pos hclick)).trans (by rw [sensBit_toggleSensBit]; rfl)

/-! ## Autoseek completion (R238) -/

theorem branch_eq_seekdone {s : State} (h1 : s.motion.soctPending = false) (h2 : s.motion.sledDirection = .stop)
    (h3 : s.motion.autoseekActive = true) : s.branch = .seekdone := by
  simp [State.branch, h1, h2, h3]

theorem seekdone_of_waiting {s : State} (h : s.since s.motion.autoseekStart < s.seekTimeUs) : s.seekdone = s := if_pos h

/-- The completion of an autoseek whose time has passed. -/
theorem seekdone_of_elapsed {s : State} (h : s.seekTimeUs ≤ s.since s.motion.autoseekStart) : s.seekdone =
    ({ s with
        motion := { s.motion with autoseekActive := false }
        cmd := { s.cmd with
          sens := setSensBit (toggleSensBit s.cmd.sens s.params.sensClick) s.params.sensXbusy false } } : State).finishAt
      { sector := sectorOfTrackInt s.motion.autoseekTarget.toInt, track := s.motion.autoseekTarget.toInt
        sectorForTrackUpdate := sectorOfTrackInt s.motion.autoseekTarget.toInt } :=
  if_neg (by omega)

/-- Settles O27: the wait, and the jump as its exact position and CLAMP, with the busy flag written after the click. -/
theorem seekCompletion : Obligations.SeekCompletion := by
  intro s hp hrun htop hsoct hsled hseek
  rw [exec_ctrlSeekdone hrun, if_pos ⟨htop, branch_eq_seekdone hsoct hsled hseek⟩]
  refine ⟨fun hwait => by rw [seekdone_of_waiting (s := s.beginIteration) hwait], fun helapsed => ?_⟩
  rw [seekdone_of_elapsed (s := s.beginIteration) helapsed]
  refine ⟨_, rfl, finishAt_clamped_of_params hp (by rfl), limitOut_eq _, rfl, fun q => ?_, rfl, rfl, rfl⟩
  exact (sensBit_setSensBit ..).trans (by rw [sensBit_toggleSensBit]; rfl)

/-! ## A play advance (R239) -/

theorem branch_eq_play {s : State} (h1 : s.motion.soctPending = false) (h2 : s.motion.sledDirection = .stop)
    (h3 : s.motion.autoseekActive = false) (h4 : s.fok = true) : s.branch = .play := by
  simp [State.branch, h1, h2, h3, h4]

theorem play_of_not_consumed {s : State} (h : s.subq.consumed = false) : s.play = s := by
  simp [State.play, h]

theorem play_of_consumed {s : State} (h : s.subq.consumed = true) : s.play =
    { s.finishAt (playAdvance s.exactPos) with ctrlPhase := .playDelay (s.now.toNat + s.params.subqDelayUs) } :=
  if_pos h

theorem playAdvance_below_capacity {e : ExactPos} (h : e.sector + 1 - e.sectorForTrackUpdate < sectorsPerTrackInt e.track) :
    playAdvance e = { e with sector := e.sector + 1 } :=
  if_neg (by omega)

theorem playAdvance_at_capacity {e : ExactPos} (h : sectorsPerTrackInt e.track ≤ e.sector + 1 - e.sectorForTrackUpdate) :
    playAdvance e = { sector := e.sector + 1, track := e.track + 1, sectorForTrackUpdate := e.sector + 1 } :=
  if_pos h

/-- Settles O28: both sides of the capacity test, then CLAMP. (The bare name `playAdvance` is the model's.) -/
theorem State.playAdvance : Obligations.PlayAdvance := by
  intro s hp hrun htop hsoct hsled hseek hfok
  rw [exec_ctrlPlay_top hrun htop, if_pos (branch_eq_play hsoct hsled hseek hfok)]
  refine ⟨fun hkept => by rw [play_of_not_consumed (s := s.beginIteration) hkept], fun hconsumed => ?_⟩
  rw [play_of_consumed (s := s.beginIteration) hconsumed]
  refine ⟨_, rfl, fun hbelow => ?_, fun hat => ?_, limitOut_eq _, rfl, rfl, rfl⟩
  · rw [playAdvance_below_capacity (e := s.beginIteration.exactPos) hbelow]
    exact finishAt_clamped_of_params hp (by rfl)
  · rw [playAdvance_at_capacity (e := s.beginIteration.exactPos) hat]
    exact finishAt_clamped_of_params hp (by rfl)

/-! ## The subchannel transmission (R241) -/

theorem keptByCtrl_lane (l : Lane) : KeptByCtrl (fun s => s.subq.lane = l) where
  begin _ h := h
  latch s h := by rw [State.latchService, serviceQueue_eq]; exact h
  branch s b h := by rw [runBranch_eq]; exact h
  finish _ h := h
  check s h := by rw [authCheck_eq]; exact h
  step s h := by rw [authStep_eq]; exact h

/-- No operation but POWERON and a transmission writes the lane. -/
theorem exec_keeps_lane {i : Instr} {s t : State} (h : exec i s = .next t) (hpoweron : i ≠ .poweron)
    (hquiet : ∀ d, (i = .ctrlPlay ∨ i = .ctrlIter) → s.ctrlPhase = .playDelay d → ¬ d ≤ s.now.toNat) :
    t.subq.lane = s.subq.lane := by
  cases hi : opClass i with
  | environment => rw [environment_frame hi hpoweron h]
  | strm => rw [strm_frame hi h]
  | probe => obtain ⟨r, rfl⟩ := probe_frame hi h; rfl
  | effect =>
    obtain rfl | ⟨e, rfl, -⟩ := effect_next hi h
    · rfl
    · rw [applyEffect_eq]
  | ctrl => exact (keptByCtrl_lane _).exec hi h rfl fun d u hev hd hpassed => absurd hpassed (hquiet d hev hd)
  | commandByte =>
    cases i with
    | cmd8 c =>
      rw [exec_cmd8] at h
      exact (keptByCtrl_lane s.subq.lane).exec rfl h rfl (by simp)
    | _ => cases hi

/-- Settles O29: no other operation writes the lane, and a sector that is not negative has a block to transmit. -/
theorem subchannelTransmission : Obligations.SubchannelTransmission := by
  refine ⟨fun i s t h hlane => ?_, fun s d hrun hdelay => ⟨fun hd => ?_, fun hd hsector => ?_⟩⟩
  · by_contra hnot
    exact hlane (exec_keeps_lane h (fun hi => hnot (.inl hi)) fun d hev hd hpassed => hnot (.inr ⟨hev, d, hd, hpassed⟩))
  · rw [exec_ctrlPlay_playDelay hrun hdelay, if_neg (by omega)]
  · obtain ⟨r, hr⟩ := subq_isSome s.params s.layout s.inputs.controlMode hsector
    have sent : s.beginIteration.subqTx = .next { s.beginIteration.transmit r with ctrlPhase := .top } := by
      simp only [State.subqTx, State.beginIteration_params, State.beginIteration_layout, State.beginIteration_inputs,
        State.beginIteration_pos, hr]
    refine ⟨r, hr, ?_⟩
    rw [exec_ctrlPlay_playDelay hrun hdelay, if_pos hd, sent]
    rfl

/-! ## The spiral (R233, R234) -/

theorem intCast_div_natCast_nonneg_iff (n : Int) {d : Nat} (hd : 0 < d) : 0 ≤ (n : ℚ) / d ↔ 0 ≤ n := by
  rw [le_div_iff₀ (by exact_mod_cast hd), zero_mul, Int.cast_nonneg_iff]

/-- Truncating division is the rational quotient rounded toward zero. -/
theorem tdiv_eq_floor_or_ceil (n : Int) {d : Nat} (hd : 0 < d) :
    n.tdiv d = if 0 ≤ (n : ℚ) / d then ⌊(n : ℚ) / d⌋ else ⌈(n : ℚ) / d⌉ := by
  simp only [intCast_div_natCast_nonneg_iff n hd, Rat.floor_intCast_div_natCast, Rat.ceil_intCast_div_natCast]
  split_ifs with h
  · exact Int.tdiv_eq_ediv_of_nonneg h
  · rw [← Int.tdiv_eq_ediv_of_nonneg (by omega), Int.neg_tdiv, neg_neg]

/-- `roundHalfAway` is the rational quotient rounded half away from zero (R12). -/
theorem roundHalfAway_eq_floor_or_ceil (n : Int) {d : Nat} (hd : 0 < d) :
    roundHalfAway n d = if 0 ≤ (n : ℚ) / d then ⌊(n : ℚ) / d + 1 / 2⌋ else ⌈(n : ℚ) / d - 1 / 2⌉ := by
  have up : (n : ℚ) / d + 1 / 2 = ((2 * n + d : Int) : ℚ) / (2 * d : Nat) := by push_cast; field_simp
  have down : (n : ℚ) / d - 1 / 2 = ((2 * n - d : Int) : ℚ) / (2 * d : Nat) := by push_cast; field_simp
  simp only [up, down, intCast_div_natCast_nonneg_iff n hd, Rat.floor_intCast_div_natCast, Rat.ceil_intCast_div_natCast, roundHalfAway]
  push_cast
  rcases lt_trichotomy n 0 with hn | rfl | hn
  · rw [if_neg (by omega), Int.sign_eq_neg_one_of_neg hn, abs_of_neg hn, neg_one_mul]
    congr 2; ring
  · rw [if_pos le_rfl, Int.sign_zero, zero_mul]
    exact (Int.ediv_eq_zero_of_lt (by omega) (by omega)).symm
  · rw [if_pos hn.le, Int.sign_eq_one_of_pos hn, abs_of_pos hn, one_mul]

/-- Every track from 0 to 40000 has its sector in an `i32`. -/
theorem fitsI32_sectorOfTrackInt {t : Int} (h0 : 0 ≤ t) (h : t ≤ 40000) : fitsI32 (sectorOfTrackInt t) := by
  have square : 0 ≤ t * t ∧ t * t ≤ 40000 * 40000 := ⟨mul_nonneg h0 h0, mul_le_mul h h h0 (by norm_num)⟩
  rw [sectorOfTrackInt, Int.tdiv_eq_ediv_of_nonneg (by omega)]
  constructor <;> omega

/-- Settles O45: both functions are a quotient of integers, rounded as `tdiv` and `roundHalfAway` round. -/
theorem spiralIsExact : Obligations.SpiralIsExact := by
  refine ⟨fun t x y hx hy => ⟨?_, ?_⟩, fun t =>
    ⟨sectorsPerTrack_toInt t, narrowI32_toInt, fitsI32_sectorOfTrackInt⟩⟩
  · have quotient : x = ((t * t * 314990 + t * 9357516535 : Int) : ℚ) / (1000000000 : Nat) := by rw [hx]; push_cast; ring
    rw [quotient, ← tdiv_eq_floor_or_ceil _ (by norm_num)]; rfl
  · have quotient : y = ((t * 616397 + 9000000000 : Int) : ℚ) / (1000000000 : Nat) := by rw [hy]; push_cast; ring
    rw [quotient, ← roundHalfAway_eq_floor_or_ceil _ (by norm_num)]; rfl

end Sys2Proof.Machine
end

