-- ==== Sys2Proof/Proofs/Authentication.lean ====
section
/-! SUPPORT. Sys2Proof/Proofs/Authentication.lean: the qualifying check and its firing (R280 to R282), the steps of the pulse train (R283 to R290). -/

namespace Sys2Proof.Machine

theorem inWindow_iff (s : State) : s.inWindow = true ↔
    (s.params.authWinLo : Int) ≤ s.pos.sector.toInt ∧ s.pos.sector.toInt < s.params.authWinHi := by
  simp [State.inWindow]

/-! ## The check (R280 to R282) -/

theorem exec_ctrlAuthchk_of_ne_top {s : State} (h : s.ctrlPhase ≠ .top) : exec .ctrlAuthchk s = .next s := by
  cases hrun : s.halted with
  | true => exact exec_ctrl_of_halted rfl hrun
  | false => rw [exec_ctrlAuthchk hrun, if_neg h]

theorem qualifies_iff (s : State) : s.qualifies = true ↔
    ((s.params.authWinLo : Int) ≤ s.pos.sector.toInt ∧ s.pos.sector.toInt < s.params.authWinHi) ∧
      sensBit s.cmd.sens s.params.sensFok = true ∧ s.inputs.overrideFlag = false ∧ s.layout.hasData = false ∧
      13333 ≤ (s.now - s.auth.lastCheck).toNat := by
  simp only [State.qualifies, inWindow_iff, State.fok, Bool.and_eq_true, Bool.not_eq_true', decide_eq_true_eq, and_assoc]
  rfl

section Check

variable {s : State}

theorem authCheck_of_not_qualifies (h : s.qualifies = false) : s.authCheck = s := by
  rw [State.authCheck, h]; rfl

/-- A check that qualifies fires when it is the 101st: a count of at most 100 does not wrap. -/
theorem authCheck_of_qualifies (h : s.qualifies = true) (hcount : s.auth.counter.toNat ≤ 100) :
    s.authCheck = if s.auth.counter.toNat = 100 then
      ({ s with auth := { s.auth with counter := s.auth.counter + 1#32, lastCheck := s.now } } : State).fire
    else { s with auth := { s.auth with counter := s.auth.counter + 1#32, lastCheck := s.now } } := by
  have fires : (s.auth.counter + 1#32).toNat > Config.authFireThreshold ↔ s.auth.counter.toNat = 100 := by
    rw [BitVec.toNat_add, Config.authFireThreshold, BitVec.toNat_ofNat]; omega
  rw [State.authCheck, if_pos h]
  exact if_congr fires rfl rfl

end Check

/-- Settles O31: the check by whether it qualifies, and the one that qualifies by whether the count stood at 100. -/
theorem authCheckAndFire : Obligations.AuthCheckAndFire := by
  refine ⟨fun s => exec_ctrlAuthchk_of_ne_top, fun s hrun htop hcount q hq => ?_⟩
  obtain rfl : s.qualifies = q := Bool.eq_iff_iff.mpr ((qualifies_iff s).trans hq.symm)
  rw [exec_ctrlAuthchk hrun, if_pos htop]
  refine ⟨fun hno => ?_, fun hyes hbelow => ?_, fun hyes hat => ?_⟩
  · rw [authCheck_of_not_qualifies hno]
  · rw [authCheck_of_qualifies hyes hcount, if_neg hbelow.ne]
  · rw [authCheck_of_qualifies hyes hcount, if_pos hat]; rfl

/-! ## The sequence (R283 to R290) -/

theorem exec_ctrlAuthstep_of_ne_auth {s : State} (h : s.ctrlPhase ≠ .auth) : exec .ctrlAuthstep s = .next s := by
  cases hrun : s.halted with
  | true => exact exec_ctrl_of_halted rfl hrun
  | false => rw [exec_ctrlAuthstep hrun, if_neg h]

/-- A row of R283's table as the statement writes it: a phase, its duration, and its successor unless the sequence ends with it. -/
def AuthRow (phase : AuthPhase) (dur : Nat) (nxt : Option AuthPhase) : Prop :=
  (phase = .leadLow ∧ dur = 90000 ∧ nxt = some (.bit 0 0)) ∨
  (∃ r i, phase = .bit r i ∧ dur = 4000 ∧
    ((∃ h : i.val + 1 < 44, nxt = some (.bit r ⟨i.val + 1, h⟩)) ∨
     (i.val = 43 ∧ ∃ h : r.val < 5, nxt = some (.gap ⟨r.val, h⟩)) ∨
     (i.val = 43 ∧ r.val = 5 ∧ nxt = none))) ∨
  (∃ r : Fin 5, phase = .gap r ∧ dur = 90000 ∧ nxt = some (.bit ⟨r.val + 1, by omega⟩ 0))

/-- The model's durations and successors are the table's; its `idle` stands for the end of the sequence. -/
theorem AuthRow.spec {phase : AuthPhase} {dur : Nat} {nxt : Option AuthPhase} (h : AuthRow phase dur nxt) :
    phase ≠ .idle ∧ authDuration phase = dur ∧ authSuccessor phase = nxt.getD .idle ∧ nxt ≠ some .idle := by
  obtain ⟨rfl, rfl, rfl⟩ | ⟨r, i, rfl, rfl, hnext⟩ | ⟨r, rfl, rfl, rfl⟩ := h
  · exact ⟨nofun, rfl, rfl, nofun⟩
  · refine ⟨nofun, rfl, ?_⟩
    obtain ⟨hi, rfl⟩ | ⟨hi, hr, rfl⟩ | ⟨hi, hr, rfl⟩ := hnext
    · exact ⟨dif_pos hi, nofun⟩
    · exact ⟨(dif_neg (by omega)).trans (dif_pos hr), nofun⟩
    · exact ⟨(dif_neg (by omega)).trans (dif_neg (by omega)), nofun⟩
  · exact ⟨nofun, rfl, rfl, nofun⟩

/-- Repetition `r` sends pattern `r mod 3` (R283). -/
theorem authPattern_eq (p : Params) (r : Fin 6) : authPattern p r =
    if r.val % 3 = 0 then p.authPattern0 else if r.val % 3 = 1 then p.authPattern1 else p.authPattern2 := by
  fin_cases r <;> rfl

theorem not_abortCond_iff (s : State) : (!s.abortCond) = true ↔
    (s.params.authWinLo : Int) ≤ s.pos.sector.toInt ∧ s.pos.sector.toInt < s.params.authWinHi ∧ s.inputs.overrideFlag = false := by
  simp [State.abortCond, inWindow_iff, and_assoc]

section Step

variable {s : State} {dur : Nat} {nxt : Option AuthPhase} (hrow : AuthRow s.auth.phase dur nxt)
include hrow

theorem authStep_of_waiting (hwait : s.since s.auth.phaseStart < dur) : s.authStep = s := by
  obtain ⟨running, rfl, -⟩ := hrow.spec
  rw [State.authStep, if_neg running, if_pos hwait]

theorem authStep_of_elapsed (helapsed : dur ≤ s.since s.auth.phaseStart) : s.authStep = s.authBoundary := by
  obtain ⟨running, rfl, -⟩ := hrow.spec
  rw [State.authStep, if_neg running, if_neg (by omega)]

theorem authBoundary_of_last (hstays : s.abortCond = false) (hlast : nxt = none) : s.authBoundary = s.authDone := by
  obtain ⟨-, -, successor, -⟩ := hrow.spec
  subst hlast
  rw [State.authBoundary, hstays, if_neg Bool.false_ne_true]
  exact if_pos successor

theorem authBoundary_of_next (hstays : s.abortCond = false) {n : AuthPhase} (hnext : nxt = some n) :
    s.authBoundary = s.authAdvance n := by
  obtain ⟨-, -, successor, not_idle⟩ := hrow.spec
  subst hnext
  rw [State.authBoundary, hstays, if_neg Bool.false_ne_true, successor]
  exact if_neg fun h => not_idle (congrArg some h)

end Step

theorem authBoundary_of_abort {s : State} (h : s.abortCond = true) : s.authBoundary = s.abort := if_pos h

/-- Settles O32: the wait, and the boundary as abort, completion or the table's next phase. -/
theorem authSequenceStep : Obligations.AuthSequenceStep := by
  refine ⟨fun s => exec_ctrlAuthstep_of_ne_auth, fun s dur nxt hrun hauth (row : AuthRow s.auth.phase dur nxt) stays hstays => ?_⟩
  obtain rfl : (!s.abortCond) = stays := Bool.eq_iff_iff.mpr ((not_abortCond_iff s).trans hstays.symm)
  rw [exec_ctrlAuthstep hrun, if_pos hauth]
  refine ⟨fun hwait => ?_, fun helapsed hno => ?_, fun helapsed hyes hlast => ?_, fun n helapsed hyes hnext => ?_⟩
  · rw [authStep_of_waiting row hwait]
  · rw [authStep_of_elapsed row helapsed, authBoundary_of_abort (by simpa using hno)]; rfl
  · rw [authStep_of_elapsed row helapsed, authBoundary_of_last row (by simpa using hyes) hlast]; rfl
  · rw [authStep_of_elapsed row helapsed, authBoundary_of_next row (by simpa using hyes) hnext, State.authAdvance]
    obtain ⟨-, rfl, -⟩ := row.spec
    cases n with
    | bit r i => simp only [authLevel, authPattern_eq]
    | idle | leadLow | gap r => rfl

end Sys2Proof.Machine
end

