-- ==== Sys2Proof/Proofs/Transport.lean ====
section
/-! SUPPORT. Sys2Proof/Proofs/Transport.lean: the transport's reports to STRM, a drained frame (R312) and a word-clock level (R314). -/

namespace Sys2Proof.Machine

/-! ## The drain report (R312) -/

/-- Settles O13: the two cases of the report are the two values of the test on STRM's phase. -/
theorem drainReport : Obligations.DrainReport :=
  fun _ => ⟨_, rfl, rfl, fun hwait => if_pos hwait, fun hother => if_neg hother, rfl⟩

/-! ## The word clock (R314) -/

theorem exec_envWclk_of_level {s : State} {v : Bool} (h : v = s.strm.wclkLevel) : exec (.envWclk v) s = .next s := if_pos h

/-- The edge count after a word-clock transition. -/
def Streamer.edgesAfter (m : Streamer) : BitVec 2 :=
  if m.phase = .waitClock ∧ m.clockEdges < 2#2 then m.clockEdges + 1#2 else m.clockEdges

theorem exec_envWclk_of_transition {s : State} {v : Bool} (h : v ≠ s.strm.wclkLevel) :
    exec (.envWclk v) s = .next { s with strm := { s.strm with wclkLevel := v, clockEdges := s.strm.edgesAfter } } := if_neg h

section Edges

variable {m : Streamer}

/-- Below two edges the two-bit counter does not wrap. -/
theorem edgesAfter_toNat_of_counting (hwait : m.phase = .waitClock) (hfew : m.clockEdges.toNat < 2) :
    m.edgesAfter.toNat = m.clockEdges.toNat + 1 := by
  have counted : m.edgesAfter = m.clockEdges + 1#2 := if_pos ⟨hwait, BitVec.lt_def.mpr hfew⟩
  have fits : m.clockEdges.toNat + 1 < 2 ^ 2 := by omega
  rw [counted]
  exact BitVec.toNat_add_of_lt fits

theorem edgesAfter_of_not_counting (h : m.phase ≠ .waitClock ∨ 2 ≤ m.clockEdges.toNat) : m.edgesAfter = m.clockEdges := by
  refine if_neg fun ⟨hwait, hfew⟩ => ?_
  rcases h with hother | hfull
  · exact hother hwait
  · exact hfull.not_gt (BitVec.lt_def.mp hfew)

end Edges

/-- Settles O15: the level again is no transition; a transition moves the edge count where STRM is counting. -/
theorem wordClockTransition : Obligations.WordClockTransition :=
  fun _ _ => ⟨exec_envWclk_of_level, fun htransition =>
    ⟨_, exec_envWclk_of_transition htransition, rfl, rfl, edgesAfter_toNat_of_counting, edgesAfter_of_not_counting⟩⟩

end Sys2Proof.Machine
end

section
/-! SUPPORT. The words of the table (R100 to R103), the fetch (R116, R375), power-on and the halt (R331, R360 to R362), the
environment's inputs, the latch service (R245 to R249), what a CTRL event can answer (R230 to R240, R292) and what an operation of
each class writes (R82), the pulse train's schedule (R285 to R291), the blocks of the program area (R157 to R161), RELOAD, the
probes, and the machine's invariant. -/

namespace Sys2Proof

/-! ## Words (R100 to R103) -/

/-- Settles O9: each operation's operand code is read back by its row (`decode_encode`). -/
theorem decodeOfEncode : Obligations.DecodeOfEncode := fun _ => decode_encode

/-- Settles O11: each word computes. -/
theorem tableWordsDecode : Obligations.TableWordsDecode := by
  unfold Obligations.TableWordsDecode
  decide

end Sys2Proof

namespace Sys2Proof.Machine

/-! ## Fetch and step (R102, R116, R375) -/

section Fetch

variable {s : State} {l : TraceLine} {rest : List TraceLine} (htrace : s.trace = l :: rest) (htime : s.now ≤ l.time)
include htrace htime

theorem step_of_admitted {i : Instr} (hd : decode l.word = .op i) (ha : s.poweredOn = true ∨ i = .poweron) :
    step s = exec i (s.takeLine l rest) := by
  have mayRun : admitted i s = true := by simpa [admitted] using ha
  rw [step, fetch_run htrace htime hd mayRun]

theorem step_of_not_admitted {i : Instr} (hd : decode l.word = .op i) (hoff : s.poweredOn = false) (hi : i ≠ .poweron) :
    step s = .refused .beforePowerOn := by
  have inOrder : ¬ l.time < s.now := BitVec.not_lt.mpr htime
  simp [step, fetch, htrace, inOrder, hd, admitted, hoff, hi]

theorem step_of_reserved {op arg : Byte} (hd : decode l.word = .reserved op arg) : step s = .refused (.reserved op arg) := by
  have inOrder : ¬ l.time < s.now := BitVec.not_lt.mpr htime
  simp [step, fetch, htrace, inOrder, hd]

end Fetch

/-- Settles O6: `admitted` holds of POWERON only. -/
theorem eventsBeforePoweronRefused : Obligations.EventsBeforePoweronRefused := by
  intro s l rest i hoff htrace htime hd
  refine ⟨step_of_not_admitted htrace htime hd hoff, ?_⟩
  rintro rfl
  exact step_of_admitted htrace htime hd (.inr rfl)

/-- Settles O7: the line taken is the line's time, operands and draws in force. -/
theorem stepRunsTheDecodedOperation : Obligations.StepRunsTheDecodedOperation :=
  fun _ _ _ _ htrace htime hd ha => step_of_admitted htrace htime hd ha

/-- Settles O8: the fetch refuses the line under the decoder's verdict. -/
theorem reservedWordRefused : Obligations.ReservedWordRefused :=
  fun _ _ _ _ _ htrace htime hd => step_of_reserved htrace htime hd

/-! ## Power-on and the fatal halt (R331, R360 to R362) -/

/-- Settles O1: both sides compute to the same state. -/
theorem resetIsWhatPoweronLeaves : Obligations.ResetIsWhatPoweronLeaves := rfl

/-- The state in which POWERON draws the mount: every element at its reset value. -/
def State.powered (s : State) : State := { s.withResetElements with poweredOn := true }

theorem exec_poweron_of_mountOk {s : State} (h : s.draws.mountOk = true) : exec .poweron s = .next s.powered.startup := if_pos h

theorem exec_poweron_of_mount_failed {s : State} (h : s.draws.mountOk = false) :
    exec .poweron s = .next ((s.powered.raiseFatal .mountFailure).note [.mountFailure]) := if_neg (ne_true_of_eq_false h)

/-- What the startup of both agents leaves: the agents in their loops, the rest as `State.powered` has it. -/
theorem startup_powered_eq (s : State) : s.powered.startup = { s.powered with
    scrambleKey := keygen s.params
    layout := installed s.params (imageAt s.params 0#32)
    ctrlPhase := .top
    strm := { Reset.streamer with phase := .prepare }
    ctrlReady := true
    strmReady := true
    out := { s.out with diag := s.out.diag ++ loadDiag (load s.params (imageAt s.params 0#32)) } } := rfl

/-- Settles O2: each element of the state that `startup_powered_eq` writes out. -/
theorem poweronSetsEveryElement : Obligations.PoweronSetsEveryElement := by
  intro s hmount
  refine ⟨_, exec_poweron_of_mountOk hmount, ?_⟩
  rw [startup_powered_eq]
  refine ⟨rfl, rfl, rfl, rfl, rfl, rfl, rfl, rfl, fun c hc => ?_,
    rfl, rfl, rfl, rfl, rfl, rfl, rfl, rfl, rfl, rfl, rfl, rfl, rfl, rfl, rfl, rfl, rfl, rfl, rfl, rfl, rfl, rfl, rfl, rfl,
    rfl, rfl, rfl⟩
  rw [List.eq_of_mem_replicate (hc : c ∈ List.replicate 50 Reset.slot)]
  rfl

/-- Settles O3: the state `exec_poweron_of_mount_failed` names, element by element. -/
theorem mountFailureHalts : Obligations.MountFailureHalts :=
  fun _ hmount => ⟨_, exec_poweron_of_mount_failed hmount, rfl, rfl, rfl, rfl, rfl, rfl, rfl, rfl, rfl, rfl, rfl, rfl⟩

/-! ## Blocked and halted agents (R200, R331) -/

theorem exec_strmPrepare_of_blocked {s : State}
    (h : s.halted = true ∨ s.strm.phase ≠ .prepare ∨ s.sharedImage ≠ s.strm.loadedImage) : exec .strmPrepare s = .next s :=
  if_neg fun ⟨hrun, hphase, himage⟩ => by simp [hrun, hphase, himage] at h

theorem exec_strmSwap_of_blocked {s : State}
    (h : s.halted = true ∨ s.strm.phase ≠ .waitClock ∨ s.strm.clockEdges ≠ 2#2) : exec .strmSwap s = .next s :=
  if_neg fun ⟨hrun, hphase, hedges⟩ => by simp [hrun, hphase, hedges] at h

theorem exec_strmReload_of_blocked {s : State}
    (h : s.halted = true ∨ s.strm.phase ≠ .prepare ∨ s.sharedImage = s.strm.loadedImage) : exec .strmReload s = .next s :=
  if_neg fun ⟨hrun, hphase, himage⟩ => by simp [hrun, hphase, himage] at h

/-- Settles O40: each event's guard, refuted by each of its three parts. -/
theorem blockedStreamerChangesNothing : Obligations.BlockedStreamerChangesNothing :=
  fun _ => ⟨exec_strmPrepare_of_blocked, exec_strmSwap_of_blocked, exec_strmReload_of_blocked⟩

theorem inject_of_halted {s : State} (h : s.halted = true) (e : Effect) : inject s e = .next s := if_pos h

/-- Settles O4: class by class, `halted` is the first thing an agent's event asks. -/
theorem haltedAgentsChangeNothing : Obligations.HaltedAgentsChangeNothing := by
  intro i s hhalt hclass hwf hseek
  have injected := inject_of_halted hhalt
  rcases hclass with hi | hi | hi
  · exact exec_ctrl_of_halted hi hhalt
  · cases i with
    | strmPrepare => exact exec_strmPrepare_of_blocked (.inl hhalt)
    | strmSwap => exact exec_strmSwap_of_blocked (.inl hhalt)
    | strmReload => exact exec_strmReload_of_blocked (.inl hhalt)
    | _ => cases hi
  · cases i with
    | xSled | xMode | xSoct | xSens => exact injected _
    | xSeek dir =>
      obtain ⟨x, hx⟩ := hseek dir rfl
      simp only [exec, execXSeek, hx, injected]
    | xClicks n => simp only [exec, execXClicks, if_neg (bne_iff_ne.mp hwf), injected]
    | _ => cases hi

/-! ## Environment inputs (R244, R293, R171, R363) -/

/-- The current image again writes the values that stand. -/
theorem exec_envImage (n : Byte) (s : State) : exec (.envImage n) s = .next { s with
    inputs := { s.inputs with imageIndex := n.setWidth 32 }
    old := { s.old with
      imageIndex := if n.setWidth 32 = s.inputs.imageIndex then s.old.imageIndex else s.inputs.imageIndex } } := by
  simp only [exec, execEnvImage]
  split_ifs with h
  · rw [h]
  · rfl

/-- Settles O12: three inputs by computing, the image by whether the selection changes. -/
theorem inputEventsSetTheirElement : Obligations.InputEventsSetTheirElement :=
  fun s _ n _ _ => ⟨rfl, rfl, rfl, exec_envImage n s⟩

/-- Settles O14: the multiplex is the two lanes zipped. -/
theorem subchannelTaken : Obligations.SubchannelTaken :=
  fun _ => ⟨_, rfl, rfl, fun _ _ _ => List.getElem?_zip_eq_some⟩

/-! ## The latch service (R245 to R249) -/

theorem exec_ctrlLatch_top {s : State} (hrun : s.halted = false) (htop : s.ctrlPhase = .top) :
    exec .ctrlLatch s = .next s.latchService := by
  rw [exec_ctrlLatch hrun, if_pos htop]

theorem latchService_of_free {s : State} (hfree : ∀ k, s.draws.lockContendedAt = some k → s.cmd.cmdQueue.length ≤ k) :
    s.latchService = s.serviceQueue none s.cmd.cmdQueue := serviceQueue_enough _ _ _ hfree

theorem latchService_eq (s : State) : s.latchService = { s with cmd := s.latchService.cmd, motion := s.latchService.motion } :=
  serviceQueue_eq ..

/-- Settles O18: a lock that fails nowhere lets `serviceQueue_free` take every byte. -/
theorem latchServiceTakesEveryByte : Obligations.LatchServiceTakesEveryByte := by
  intro s hrun htop hfree
  obtain ⟨taken, latch, selected⟩ := serviceQueue_free s s.cmd.cmdQueue
  rw [← latchService_of_free hfree] at taken latch selected
  refine ⟨_, exec_ctrlLatch_top hrun htop, taken, latch, fun b hb => ⟨selected b hb, ?_⟩, fun hempty => ?_, latchService_eq s⟩
  · rw [State.sensOut, sensBit, selected b hb]
  · rw [latchService_of_free hfree, hempty, State.serviceQueue, ← hempty]

/-- Settles O19: `serviceQueue_contended`; an attempt that fails at once takes nothing. -/
theorem contendedLockSkipsTheRest : Obligations.ContendedLockSkipsTheRest := by
  intro s k hrun htop hlock hk
  obtain ⟨queue, latch⟩ := serviceQueue_contended s k s.cmd.cmdQueue hk
  have service : s.latchService = s.serviceQueue (some k) s.cmd.cmdQueue := by rw [State.latchService, hlock]
  rw [← service] at queue latch
  refine ⟨_, exec_ctrlLatch_top hrun htop, queue, latch, ?_, latchService_eq s⟩
  rintro rfl
  obtain ⟨b, rest, hqueue⟩ := List.exists_cons_of_length_pos hk
  rw [service, hqueue]
  exact ⟨rfl, rfl, rfl⟩

/-- The state in which a byte's effects act: the byte is in the latch and selects the SENS flag. -/
def State.shifted (s : State) (b : Byte) : State :=
  { s with cmd := { s.cmd with latch := latchShift s.cmd.latch b, currentSens := b.extractLsb' 4 4, cmdQueue := [] } }

/-- A latch service of one byte is its shift and its effects. -/
theorem latchService_of_singleton {s : State} {b : Byte} (hfree : s.draws.lockContendedAt ≠ some 0) (hqueue : s.cmd.cmdQueue = [b]) :
    s.latchService = (s.shifted b).applyEffects
      (decodeLatch s.params.decodeLatch (s.shifted b).cmd.latch (s.shifted b).view) := by
  rw [latchService_of_free, hqueue]
  · exact (applyEffects_cmdQueue ..).symm
  · rintro (_ | k) hk
    · exact absurd hk hfree
    · rw [hqueue]; exact Nat.le_add_left 1 k

section Injected

variable {s : State} (hrun : s.halted = false)
include hrun

theorem exec_xSeek {target : I32} (h : i32Operand s.operands = some target) (dir : SeekDir) :
    exec (.xSeek dir) s = .next (s.applyEffect (.autoseekStart target dir)) := by
  simp only [exec, execXSeek, h, inject_of_running hrun]

theorem exec_xClicks {n : Byte} (h : n ≠ 0#8) : exec (.xClicks n) s = .next (s.applyEffect (.clickCountSet (n.setWidth 32))) := by
  simp only [exec, execXClicks, if_neg h, inject_of_running hrun]

end Injected

/-- Settles O20: one byte's effects act on the shifted state, and an `X_` operation applies its effect to it too. -/
theorem latchEffectsActAsInjected : Obligations.LatchEffectsActAsInjected := by
  intro s u b hrun htop hfree hqueue hu
  obtain rfl : u = s.shifted b := hu
  have run : (s.shifted b).halted = false := hrun
  have service {es : List Effect} (h : decodeLatch s.params.decodeLatch (s.shifted b).cmd.latch (s.shifted b).view = es) :
      exec .ctrlLatch s = .next ((s.shifted b).applyEffects es) := by
    rw [exec_ctrlLatch_top hrun htop, latchService_of_singleton (by simp [hfree]) hqueue, h]
  have injected {v : State} (hv : v.halted = false) (e : Effect) := (inject_of_running hv e).symm
  refine ⟨service, fun d h => (service h).trans (injected run (.sledSet d)),
    fun m h => (service h).trans (injected run (.modeSet m)),
    fun n hn h => (service h).trans (exec_xClicks run hn).symm, fun h => (service h).trans (injected run .soctRequest),
    fun q v h => (service h).trans (injected run (.sensWrite q v)),
    fun target dir htarget h => (service h).trans (exec_xSeek run htarget dir).symm, fun d q v h => ?_⟩
  have first : exec (.xSled d) (s.shifted b) = .next ((s.shifted b).sledSet d) := inject_of_running run _
  rw [service h, first]
  exact injected (v := (s.shifted b).sledSet d) run (.sensWrite q v)

/-- Settles O21: the delivered byte is the queue's only one, and the service is its shift and its effects. -/
theorem commandByteEntersTheLatch : Obligations.CommandByteEntersTheLatch := by
  refine fun s b => ⟨rfl, fun hrun htop hqueue hlock => ?_⟩
  let delivered : State := { s with cmd := { s.cmd with cmdQueue := s.cmd.cmdQueue ++ [b] } }
  have only : delivered.cmd.cmdQueue = [b] := by simp [delivered, hqueue]
  refine ⟨_, (exec_cmd8 b s).trans (exec_ctrlLatch_top (s := delivered) hrun htop), ?_⟩
  rw [latchService_of_singleton (s := delivered) hlock only, applyEffects_eq]
  exact ⟨rfl, rfl, rfl, rfl⟩

/-! ## What a CTRL event can do (R230 to R240, R283) -/

/-- Everything a CTRL event can answer, by the phase it finds. -/
inductive CtrlResult (s : State) : Host.Outcome State Fault Refusal → Prop
  | unchanged : CtrlResult s (.next s)
  | latch (htop : s.ctrlPhase = .top) : CtrlResult s (.next s.latchService)
  | check (htop : s.ctrlPhase = .top) : CtrlResult s (.next s.authCheck)
  | branch (htop : s.ctrlPhase = .top) (b : Branch) : CtrlResult s (.next (s.beginIteration.runBranch b))
  | iteration (htop : s.ctrlPhase = .top) : CtrlResult s (.next s.beginIteration.topIteration)
  | finish {d : Nat} (hsettle : s.ctrlPhase = .soctSettle d) : CtrlResult s (.next s.beginIteration.soctFinish)
  | finishAndCheck {d : Nat} (hsettle : s.ctrlPhase = .soctSettle d) :
      CtrlResult s (.next s.beginIteration.soctFinish.authCheck)
  | transmit {d : Nat} (hdelay : s.ctrlPhase = .playDelay d) : CtrlResult s s.beginIteration.subqTx
  | transmitAndCheck {d : Nat} (hdelay : s.ctrlPhase = .playDelay d) : CtrlResult s (authCheckAfter s.beginIteration.subqTx)
  | step (hauth : s.ctrlPhase = .auth) : CtrlResult s (.next s.authStep)
  | iterationStep (hauth : s.ctrlPhase = .auth) : CtrlResult s (.next s.beginIteration.authStep)

theorem CtrlResult.ite_unchanged {s : State} {c : Prop} [Decidable c] {u : State} (h : c → CtrlResult s (.next u)) :
    CtrlResult s (.next (if c then u else s)) := by
  split_ifs with hc
  · exact h hc
  · exact .unchanged

theorem exec_ctrl_result {i : Instr} {s : State} (hi : opClass i = .ctrl) : CtrlResult s (exec i s) := by
  rcases Bool.eq_false_or_eq_true s.halted with hhalt | hrun
  · exact exec_ctrl_of_halted hi hhalt ▸ .unchanged
  cases i with
  | ctrlLatch => exact exec_ctrlLatch hrun ▸ .ite_unchanged .latch
  | ctrlAuthchk => exact exec_ctrlAuthchk hrun ▸ .ite_unchanged .check
  | ctrlAuthstep => exact exec_ctrlAuthstep hrun ▸ .ite_unchanged .step
  | ctrlChain => exact exec_ctrlChain hrun ▸ .ite_unchanged fun htop => .branch htop s.branch
  | ctrlSled => exact exec_ctrlSled hrun ▸ .ite_unchanged fun hsel => .branch hsel.1 .sled
  | ctrlSeekdone => exact exec_ctrlSeekdone hrun ▸ .ite_unchanged fun hsel => .branch hsel.1 .seekdone
  | ctrlSoct =>
    cases hp : s.ctrlPhase with
    | top => exact exec_ctrlSoct_top hrun hp ▸ .ite_unchanged fun _ => .branch hp .soct
    | soctSettle d => exact exec_ctrlSoct_soctSettle hrun hp ▸ .ite_unchanged fun _ => .finish hp
    | startup | playDelay | auth => exact exec_ctrlSoct_of_other hrun (by simp [hp]) ▸ .unchanged
  | ctrlPlay =>
    cases hp : s.ctrlPhase with
    | top => exact exec_ctrlPlay_top hrun hp ▸ .ite_unchanged fun _ => .branch hp .play
    | playDelay d =>
      rw [exec_ctrlPlay_playDelay hrun hp]
      split_ifs
      · exact .transmit hp
      · exact .unchanged
    | startup | soctSettle | auth => exact exec_ctrlPlay_of_other hrun (by simp [hp]) ▸ .unchanged
  | ctrlIter =>
    cases hp : s.ctrlPhase with
    | top => exact exec_ctrlIter_top hrun hp ▸ .iteration hp
    | soctSettle d => exact exec_ctrlIter_soctSettle hrun hp ▸ .ite_unchanged fun _ => .finishAndCheck hp
    | playDelay d =>
      rw [exec_ctrlIter_playDelay hrun hp]
      split_ifs
      · exact .transmitAndCheck hp
      · exact .unchanged
    | auth => exact exec_ctrlIter_auth hrun hp ▸ .iterationStep hp
    | startup => exact exec_ctrlIter_startup hrun hp ▸ .unchanged
  | _ => cases hi

theorem authCheckAfter_next {o : Host.Outcome State Fault Refusal} {t : State} (h : authCheckAfter o = .next t) :
    ∃ u, o = .next u ∧ t = u.authCheck := by
  cases o with
  | next u => exact ⟨u, rfl, (Host.Outcome.next.inj h).symm⟩
  | fault r => cases h
  | refused r => cases h

/-- Each part of a CTRL event stays in the frame, and so does the event. -/
theorem ctrl_frame {i : Instr} {s t : State} (hi : opClass i = .ctrl) (h : exec i s = .next t) : ctrlFrame s t := by
  have parts : KeptByCtrl (ctrlFrame s) :=
    { begin := fun u hu => ctrlFrame_trans hu (ctrlFrame_begin u)
      latch := fun u hu => ctrlFrame_trans hu (ctrlFrame_latch u)
      branch := fun u b hu => ctrlFrame_trans hu (ctrlFrame_branch u b)
      finish := fun u hu => ctrlFrame_trans hu (ctrlFrame_soctFinish u)
      check := fun u hu => ctrlFrame_trans hu (ctrlFrame_check u)
      step := fun u hu => ctrlFrame_trans hu (ctrlFrame_authStep u) }
  exact parts.exec hi h (ctrlFrame_refl s) fun _ _ _ _ _ hu => ctrlFrame_trans (ctrlFrame_begin s) (ctrlFrame_transmit hu)

theorem ctrlFrame_inputs {s t : State} (h : ctrlFrame s t) : t.inputs = s.inputs := by
  rw [ctrlFrame] at h
  rw [h]

/-! ## Completion and the chain's order (R151, R232, R240) -/

theorem subqTx_of_nonneg {s : State} (h : 0 ≤ s.pos.sector.toInt) : ∃ t, s.subqTx = .next t := by
  obtain ⟨r, hr⟩ := subq_isSome s.params s.layout s.inputs.controlMode h
  exact ⟨_, by rw [State.subqTx, hr]⟩

/-- Settles O22: only a transmission can stop an event, and a sector that is not negative has a block. -/
theorem ctrlEventsComplete : Obligations.CtrlEventsComplete := by
  intro i s hi hsector
  obtain ⟨sent, hsent⟩ : ∃ t, s.beginIteration.subqTx = .next t := subqTx_of_nonneg (s := s.beginIteration) hsector
  generalize ho : exec i s = o
  cases ho ▸ exec_ctrl_result hi with
  | transmit => exact ⟨sent, hsent⟩
  | transmitAndCheck => exact ⟨sent.authCheck, congrArg authCheckAfter hsent⟩
  | _ => exact ⟨_, rfl⟩

theorem branch_eq_skip {s : State} (h1 : s.motion.soctPending = false) (h2 : s.motion.sledDirection = .stop)
    (h3 : s.motion.autoseekActive = false) (h4 : sensBit s.cmd.sens s.params.sensFok = false) : s.branch = .skip := by
  simp [State.branch, State.fok, h1, h2, h3, h4]

/-- In `Top`, where the chain selects `b`: the event of that branch is the chain's, the other three do nothing. -/
theorem exec_branch_events {s : State} {b : Branch} (hrun : s.halted = false) (htop : s.ctrlPhase = .top) (hb : s.branch = b) :
    exec .ctrlChain s = .next (s.beginIteration.runBranch b) ∧
    exec .ctrlSoct s = .next (if b = .soct then s.beginIteration.runBranch .soct else s) ∧
    exec .ctrlSled s = .next (if b = .sled then s.beginIteration.runBranch .sled else s) ∧
    exec .ctrlSeekdone s = .next (if b = .seekdone then s.beginIteration.runBranch .seekdone else s) ∧
    exec .ctrlPlay s = .next (if b = .play then s.beginIteration.runBranch .play else s) := by
  simp only [exec_ctrlChain hrun, exec_ctrlSoct_top hrun htop, exec_ctrlSled hrun, exec_ctrlSeekdone hrun,
    exec_ctrlPlay_top hrun htop, htop, ← hb, true_and, if_true]
  exact ⟨rfl, rfl, rfl, rfl, rfl⟩

/-- Settles O24: the branch each guard selects, and the events outside `Top`. -/
theorem chainPriority : Obligations.ChainPriority := by
  refine fun s hrun => ⟨fun htop => ⟨fun h1 => ?_, fun h1 h2 => ?_, fun h1 h2 h3 => ?_, fun h1 h2 h3 h4 => ?_, fun h1 h2 h3 h4 => ?_⟩,
    fun hother => ⟨?_, ?_, ?_, ?_, fun h => exec_ctrlSoct_of_other hrun ⟨hother, h⟩,
      fun h => exec_ctrlPlay_of_other hrun ⟨hother, h⟩⟩⟩
  · obtain ⟨chain, soct, sled, seekdone, play⟩ := exec_branch_events hrun htop (branch_eq_soct h1)
    exact ⟨chain.trans soct.symm, sled, seekdone, play⟩
  · obtain ⟨chain, soct, sled, seekdone, play⟩ := exec_branch_events hrun htop (branch_eq_sled h1 h2)
    exact ⟨chain.trans sled.symm, soct, seekdone, play⟩
  · obtain ⟨chain, soct, sled, seekdone, play⟩ := exec_branch_events hrun htop (branch_eq_seekdone h1 h2 h3)
    exact ⟨chain.trans seekdone.symm, soct, sled, play⟩
  · obtain ⟨chain, soct, sled, seekdone, play⟩ := exec_branch_events hrun htop (branch_eq_play h1 h2 h3 h4)
    exact ⟨chain.trans play.symm, soct, sled, seekdone⟩
  · exact exec_branch_events hrun htop (branch_eq_skip h1 h2 h3 h4)
  · rw [exec_ctrlLatch hrun, if_neg hother]
  · rw [exec_ctrlChain hrun, if_neg hother]
  · rw [exec_ctrlSled hrun, if_neg fun h => hother h.1]
  · rw [exec_ctrlSeekdone hrun, if_neg fun h => hother h.1]

/-! ## Stale reads (R83, R87) -/

theorem subqTx_old {s t : State} (h : s.subqTx = .next t) : t.old = s.old := by
  obtain ⟨r, -, rfl⟩ := subqTx_next h
  rfl

/-- A CTRL event that records nothing leaves the position as it was. -/
theorem ctrl_old {i : Instr} {s t : State} (hi : opClass i = .ctrl) (h : exec i s = .next t) :
    (t.pos = s.pos ∧ t.old = s.old) ∨ t.old = s.beginIteration.old := by
  have result := h ▸ exec_ctrl_result hi
  generalize ho : Host.Outcome.next t = o at result
  cases result with
  | unchanged => cases ho; exact .inl ⟨rfl, rfl⟩
  | latch => cases ho; rw [latchService_eq]; exact .inl ⟨rfl, rfl⟩
  | check => cases ho; rw [authCheck_eq]; exact .inl ⟨rfl, rfl⟩
  | step => cases ho; rw [authStep_eq]; exact .inl ⟨rfl, rfl⟩
  | branch htop b => cases ho; exact .inr (runBranch_old ..)
  | iteration => cases ho; exact .inr (topIteration_old _)
  | finish => cases ho; exact .inr rfl
  | finishAndCheck => cases ho; exact .inr (authCheck_old _)
  | iterationStep => cases ho; exact .inr (authStep_old _)
  | transmit => exact .inr (subqTx_old ho.symm)
  | transmitAndCheck =>
    obtain ⟨u, hu, rfl⟩ := authCheckAfter_next ho.symm
    exact .inr ((authCheck_old u).trans (subqTx_old hu))

/-- Settles O30: in each phase the iteration's own equation, and in `Top` the chain's for the branch its guards select. -/
theorem staleReadIsOneIterationOld : Obligations.StaleReadIsOneIterationOld := by
  refine ⟨fun s => ⟨rfl, rfl, rfl, rfl⟩, ?_⟩
  rintro i s t _ hi h rfl
  have records {u : State} (hu : exec i s = .next u) (hold : u.old = s.beginIteration.old) : t.old = s.beginIteration.old := by
    obtain rfl := Host.Outcome.next.inj (hu.symm.trans h)
    exact hold
  refine ⟨ctrlFrame_inputs (ctrl_frame hi h), ctrl_old hi h, fun hrun => ?_⟩
  have chain (htop : s.ctrlPhase = .top) : exec .ctrlChain s = .next (s.beginIteration.runBranch s.branch) :=
    (exec_branch_events hrun htop rfl).1
  refine ⟨?_, ?_, ?_, ?_, ?_, ?_, ?_, ?_⟩
  · rintro htop (rfl | rfl)
    · exact records (exec_ctrlIter_top hrun htop) (topIteration_old _)
    · exact records (chain htop) (runBranch_old ..)
  · rintro d hsettle hd (rfl | rfl)
    · rw [exec_ctrlIter_soctSettle hrun hsettle, if_pos hd] at h
      cases h; exact authCheck_old _
    · rw [exec_ctrlSoct_soctSettle hrun hsettle, if_pos hd] at h
      cases h; rfl
  · rintro d hdelay hd (rfl | rfl)
    · rw [exec_ctrlIter_playDelay hrun hdelay, if_pos hd] at h
      obtain ⟨u, hu, rfl⟩ := authCheckAfter_next h
      exact (authCheck_old u).trans (subqTx_old hu)
    · rw [exec_ctrlPlay_playDelay hrun hdelay, if_pos hd] at h
      exact subqTx_old h
  · rintro hauth rfl
    exact records (exec_ctrlIter_auth hrun hauth) (authStep_old _)
  · rintro htop h1 rfl
    obtain ⟨first, -⟩ := (chainPriority s hrun).1 htop
    exact records ((first h1).1.symm.trans (chain htop)) (runBranch_old ..)
  · rintro htop h1 h2 rfl
    obtain ⟨-, second, -⟩ := (chainPriority s hrun).1 htop
    exact records ((second h1 h2).1.symm.trans (chain htop)) (runBranch_old ..)
  · rintro htop h1 h2 h3 rfl
    obtain ⟨-, -, third, -⟩ := (chainPriority s hrun).1 htop
    exact records ((third h1 h2 h3).1.symm.trans (chain htop)) (runBranch_old ..)
  · rintro htop h1 h2 h3 h4 rfl
    obtain ⟨-, -, -, fourth, -⟩ := (chainPriority s hrun).1 htop
    exact records ((fourth h1 h2 h3 h4).1.symm.trans (chain htop)) (runBranch_old ..)

/-! ## The sequence blocks the controller (R292) -/

theorem authStep_counter (s : State) : s.authStep.auth.counter = s.auth.counter := by
  unfold State.authStep State.authBoundary
  split_ifs <;> rfl

/-- Settles O34: in `Auth` only an iteration acts, as a step of the sequence. -/
theorem authBlocksTheController : Obligations.AuthBlocksTheController := by
  intro s hrun hauth
  have notTop : s.ctrlPhase ≠ .top := by simp [hauth]
  refine ⟨⟨_, exec_ctrlIter_auth hrun hauth, ?_, authStep_counter _⟩, ?_⟩
  · rw [authStep_eq]; rfl
  · obtain ⟨-, outside⟩ := chainPriority s hrun
    obtain ⟨latch, chain, sled, seekdone, soct, play⟩ := outside notTop
    rintro i (rfl | rfl | rfl | rfl | rfl | rfl | rfl)
    · exact latch
    · exact chain
    · exact soct (by simp [hauth])
    · exact sled
    · exact seekdone
    · exact play (by simp [hauth])
    · exact exec_ctrlAuthchk_of_ne_top notTop

/-! ## Who writes what (R82) -/

/-- An injected effect changes what a CTRL event may. -/
theorem effect_frame {i : Instr} {s t : State} (hi : opClass i = .effect) (h : exec i s = .next t) : ctrlFrame s t := by
  obtain rfl | ⟨e, rfl, -⟩ := effect_next hi h
  · exact ctrlFrame_refl t
  · exact ctrlFrame_effects s [e]

/-- A command byte changes what a CTRL event may: the queue, and the rest by its latch service. -/
theorem commandByte_frame {i : Instr} {s t : State} (hi : opClass i = .commandByte) (h : exec i s = .next t) : ctrlFrame s t := by
  cases i with
  | cmd8 b =>
    rw [exec_cmd8] at h
    refine ctrlFrame_trans ?_ (ctrl_frame rfl h)
    rfl
  | _ => cases hi

/-- Everything a STRM event can do, by the phase it finds. -/
theorem strm_next {i : Instr} {s t : State} (hi : opClass i = .strm) (h : exec i s = .next t) :
    t = s ∨ (s.strm.phase = .prepare ∧ t = s.prepare) ∨ (s.strm.phase = .waitClock ∧ t = { s with strm := s.strm.swap }) ∨
      ∃ n, t = s.reload n := by
  cases i with
  | strmPrepare =>
    simp only [exec, execStrmPrepare] at h
    split_ifs at h with guard <;> cases h
    · exact .inr (.inl ⟨guard.2.1, rfl⟩)
    · exact .inl rfl
  | strmSwap =>
    simp only [exec, execStrmSwap] at h
    split_ifs at h with guard <;> cases h
    · exact .inr (.inr (.inl ⟨guard.2.1, rfl⟩))
    · exact .inl rfl
  | strmReload =>
    simp only [exec, execStrmReload] at h
    split_ifs at h with guard <;> cases h
    · exact .inr (.inr (.inr ⟨_, rfl⟩))
    · exact .inl rfl
  | _ => cases hi

/-- Of the outputs a STRM event writes the diagnostic log and the storage requests. -/
theorem strm_out {i : Instr} {s t : State} (hi : opClass i = .strm) (h : exec i s = .next t) :
    t.out = { s.out with diag := t.out.diag, reads := t.out.reads } := by
  obtain rfl | ⟨-, rfl⟩ | ⟨-, rfl⟩ | ⟨n, rfl⟩ := strm_next hi h
  · rfl
  · rw [prepare_eq]
  · rfl
  · rfl

/-- Settles O57: each class by what its operations can change. -/
theorem ownershipOfState : Obligations.OwnershipOfState := by
  refine fun i s t h => ⟨fun hi => ?_, fun hi => ?_, fun hi => ?_⟩
  · have frame : ctrlFrame s t := by
      rcases hi with hi | hi | hi
      · exact ctrl_frame hi h
      · exact effect_frame hi h
      · exact commandByte_frame hi h
    rw [ctrlFrame] at frame
    rw [frame]
    exact ⟨rfl, rfl, rfl, rfl, rfl⟩
  · have out := strm_out hi h
    have frame := strm_frame hi h
    rw [frame]
    exact ⟨rfl, rfl, rfl, rfl, rfl, rfl, rfl, rfl, rfl, out⟩
  · obtain ⟨r, rfl⟩ := probe_frame hi h
    rfl

/-! ## What only POWERON writes (R9, R14, R52, R88, R331) -/

/-- What an operation but POWERON may change: not the halt, the key, the ready flags, the parameters, the storage, the time or the trace. -/
def operationFrame (s t : State) : Prop :=
  t = { s with
    pos := t.pos, ctrlPhase := t.ctrlPhase, motion := t.motion, subq := t.subq, cmd := t.cmd, auth := t.auth, strm := t.strm
    layout := t.layout, inputs := t.inputs, old := t.old, out := t.out }

theorem operationFrame_of_ctrlFrame {s t : State} (h : ctrlFrame s t) : operationFrame s t := by
  rw [ctrlFrame] at h
  rw [operationFrame, h]

theorem exec_frame {i : Instr} {s t : State} (hne : i ≠ .poweron) (h : exec i s = .next t) : operationFrame s t := by
  cases hi : opClass i with
  | environment => rw [environment_frame hi hne h]; rfl
  | ctrl => exact operationFrame_of_ctrlFrame (ctrl_frame hi h)
  | strm => rw [strm_frame hi h]; rfl
  | probe => obtain ⟨r, rfl⟩ := probe_frame hi h; rfl
  | effect => exact operationFrame_of_ctrlFrame (effect_frame hi h)
  | commandByte => exact operationFrame_of_ctrlFrame (commandByte_frame hi h)

/-- Settles O5: no operation but POWERON writes the halt or its cause. -/
theorem onlyPoweronTouchesHalt : Obligations.OnlyPoweronTouchesHalt := by
  intro s t h
  obtain ⟨-, rfl⟩ | ⟨l, rest, i, htrace, -, hd, -, hexec⟩ := step_cases h
  · exact .inl ⟨rfl, rfl⟩
  · by_cases hi : i = .poweron
    · exact .inr ⟨l, rest, htrace, hi ▸ hd⟩
    · rw [exec_frame hi hexec]
      exact .inl ⟨rfl, rfl⟩

theorem exec_keeps_storage {i : Instr} {s t : State} (h : exec i s = .next t) :
    t.storage = s.storage ∧ t.params = s.params ∧ t.now = s.now ∧ t.trace = s.trace := by
  by_cases hi : i = .poweron
  · subst hi
    cases hmount : s.draws.mountOk with
    | true =>
      cases (exec_poweron_of_mountOk hmount).symm.trans h
      exact ⟨rfl, rfl, rfl, rfl⟩
    | false =>
      cases (exec_poweron_of_mount_failed hmount).symm.trans h
      exact ⟨rfl, rfl, rfl, rfl⟩
  · rw [exec_frame hi h]
    exact ⟨rfl, rfl, rfl, rfl⟩

/-- Settles O58: the fetch takes a line that is not earlier, and no operation writes the rest. -/
theorem storageParametersAndTime : Obligations.StorageParametersAndTime := by
  intro s t h
  obtain ⟨hend, rfl⟩ | ⟨l, rest, i, htrace, htime, -, -, hexec⟩ := step_cases h
  · exact ⟨rfl, rfl, BitVec.le_refl _, by rw [hend]; rfl⟩
  · obtain ⟨storage, params, now, trace⟩ := exec_keeps_storage hexec
    exact ⟨storage, params, now ▸ htime, by rw [trace, htrace]; rfl⟩

/-! ## The pulse train (R283 to R291) -/

/-- From phase `a` a sequence runs `n` phases, `us` microseconds in all, to phase `b`. -/
structure AuthRun (a : AuthPhase) (n us : Nat) (b : AuthPhase) : Prop where
  leads : authSuccessor^[n] a = b
  lasts : ((List.range n).map (fun k => authDuration (authSuccessor^[k] a))).sum = us
  runs  : ∀ k < n, authSuccessor^[k] a ≠ .idle

theorem AuthRun.none (a : AuthPhase) : AuthRun a 0 0 a := ⟨rfl, rfl, nofun⟩

theorem AuthRun.next {a b c : AuthPhase} {n us d : Nat} (h : AuthRun a n us b) (hb : b ≠ .idle) (hd : authDuration b = d)
    (hc : authSuccessor b = c) : AuthRun a (n + 1) (us + d) c := by
  obtain ⟨rfl, rfl, runs⟩ := h
  refine ⟨by rw [Function.iterate_succ_apply', hc], by simp [List.range_succ, hd], fun k hk => ?_⟩
  rcases Nat.lt_succ_iff_lt_or_eq.mp hk with hlt | rfl
  · exact runs k hlt
  · exact hb

/-- One after another. -/
theorem AuthRun.trans {a b c : AuthPhase} {m n us vs : Nat} (h : AuthRun a m us b) (h' : AuthRun b n vs c) :
    AuthRun a (m + n) (us + vs) c := by
  obtain ⟨rfl, rfl, runs⟩ := h
  obtain ⟨rfl, rfl, runs'⟩ := h'
  have shift (k : Nat) : authSuccessor^[m + k] a = authSuccessor^[k] (authSuccessor^[m] a) := by
    rw [Nat.add_comm, Function.iterate_add_apply]
  refine ⟨shift n, by simp [List.range_add, Function.comp_def, shift], fun k hk => ?_⟩
  by_cases hlt : k < m
  · exact runs k hlt
  · obtain ⟨j, rfl⟩ := Nat.exists_eq_add_of_le (not_lt.mp hlt)
    rw [shift]
    exact runs' j (by omega)

/-- The bit cells of a repetition, up to cell `n`. -/
theorem authRun_bits (r : Fin 6) (n : Nat) (hn : n < 44) : AuthRun (.bit r 0) n (n * 4000) (.bit r ⟨n, hn⟩) := by
  induction n with
  | zero => exact .none _
  | succ n ih => exact Nat.succ_mul n 4000 ▸ (ih (by omega)).next nofun rfl (dif_pos hn)

/-- The 44 bit cells of a repetition, and what follows the last. -/
theorem authRun_repetition {r : Fin 6} {b : AuthPhase} (h : authSuccessor (.bit r 43) = b) : AuthRun (.bit r 0) 44 176000 b :=
  (authRun_bits r 43 (by decide)).next nofun rfl h

/-- A repetition but the last, and the gap after it. -/
theorem authRun_repetition_gap (r : Fin 5) : AuthRun (.bit r.castSucc 0) 45 266000 (.bit r.succ 0) :=
  (authRun_repetition (b := .gap r) (by simp [authSuccessor])).next (d := 90000) nofun rfl rfl

/-- The whole sequence: the lead-in low, five repetitions with their gaps, and the last repetition. -/
theorem authRun_sequence : AuthRun .leadLow 270 1596000 .idle :=
  (AuthRun.none .leadLow).next (d := 90000) nofun rfl rfl |>.trans (authRun_repetition_gap 0) |>.trans (authRun_repetition_gap 1)
    |>.trans (authRun_repetition_gap 2) |>.trans (authRun_repetition_gap 3) |>.trans (authRun_repetition_gap 4)
    |>.trans (authRun_repetition rfl)

/-- Settles O33: the levels by the pattern of each repetition, the schedule as `authRun_sequence`. -/
theorem authSequenceSchedule : Obligations.AuthSequenceSchedule := by
  obtain ⟨leads, lasts, runs⟩ := authRun_sequence
  refine ⟨fun p r i g => ⟨rfl, rfl, fun h => ?_, fun h => ?_, fun h => ?_⟩, lasts, runs, leads⟩ <;>
    rw [authLevel, authPattern_eq, h] <;> rfl

/-! ## The blocks of the program area (R157 to R161) -/

section Program

variable {p : Params} {L : Layout} {s : Int} {t : Nat}

theorem subq_program {m : ControlMode} (h : (p.leadInSectors : Int) ≤ s) : subq p L m s =
    some { raw := applyMode p m s (programBlock p L s (trackOf p L s)), lookup := some (trackOf p L s) } :=
  if_neg (not_lt.mpr h)

theorem programBlock_countDown (h : s < p.leadInSectors + 150) (ht : t ≤ L.trackCount.toNat) :
    programBlock p L s t = countDownBlock p L s t := if_pos ⟨h, (Nat.lt_succ_of_le ht).ne⟩

theorem programBlock_forward (h : (p.leadInSectors : Int) + 150 ≤ s ∨ t = L.trackCount.toNat + 1) :
    programBlock p L s t = forwardBlock p L s t := by
  refine if_neg fun ⟨hs, ht⟩ => ?_
  rcases h with h | h
  · exact absurd hs (not_lt.mpr h)
  · exact ht h

/-- The count-down of a sector below `LI + 150` is not negative, so that truncating division rounds down. -/
theorem countDownBlock_eq {k : Int} (hk : k = p.leadInSectors + 150 - s - (p.pregapCountdownBias.val : Int)) (h0 : 0 ≤ k) :
    countDownBlock p L s t = blockOf (ctlOf p (trackAt L t)) (toBcd t) 0x00#8 [0x00#8, toBcd (k / 75), toBcd (k % 75)]
      (bcd3 (msf (s - p.leadInSectors))) := by
  rw [← Int.tdiv_eq_ediv_of_nonneg h0, ← Int.tmod_eq_emod_of_nonneg h0, hk]
  rfl

end Program

/-- Settles O55: a count-down block, or a forward one in the lead-out and from `LI + 150` on, with the CRC over its zero bytes. -/
theorem programBlockContents : Obligations.ProgramBlockContents := by
  rintro p L m s t _ hm hs rfl rfl
  have block := subq_program (L := L) (m := m) hs
  rw [applyMode_crc hm] at block
  by_cases hdown : s < p.leadInSectors + 150 ∧ trackOf p L s ≤ L.trackCount.toNat
  · obtain ⟨hbefore, htrack⟩ := hdown
    have bias := p.pregapCountdownBias.isLt
    rw [programBlock_countDown hbefore htrack, countDownBlock_eq rfl (by omega), blockOf, ctlOf_eq] at block
    refine ⟨_, _, _, _, _, _, block, rfl, storeCrc_block .., fun _ _ => ⟨rfl, rfl, rfl, ?_⟩, by omega⟩
    rintro _ rfl
    exact ⟨rfl, rfl⟩
  · have upper := (trackOf_range p L s).2
    rw [programBlock_forward (by omega), forwardBlock, blockOf, ctlOf_eq] at block
    exact ⟨_, _, _, _, _, _, block, rfl, storeCrc_block .., fun hbefore htrack => absurd ⟨hbefore, htrack⟩ hdown,
      fun _ => ⟨rfl, rfl, rfl⟩⟩

/-! ## RELOAD (R205, R206) -/

theorem lookup_of_invalid {cache : List Slot} (h : ∀ c ∈ cache, c.valid = false) (key : I32) : lookup cache key = none :=
  List.findIdx?_eq_none_iff.mpr fun c hc => by rw [h c hc]; rfl

theorem exec_strmReload {s : State} (hrun : s.halted = false) (hphase : s.strm.phase = .prepare)
    (himage : s.sharedImage ≠ s.strm.loadedImage) : exec .strmReload s = .next (s.reload s.reloadImage) :=
  if_pos ⟨hrun, hphase, himage⟩

theorem reload_invalid (s : State) (n : U32) : ∀ c ∈ (s.reload n).strm.cache, c.valid = false := by
  intro c hc
  obtain ⟨c, -, rfl⟩ := List.mem_map.mp (hc : c ∈ s.strm.cache.map fun c => { c with valid := false })
  rfl

/-- Settles O39: `State.reload`, element by element; a lookup finds only valid slots. -/
theorem reloadClearsTheStreamer : Obligations.ReloadClearsTheStreamer := by
  intro s hrun hphase himage
  have invalid := reload_invalid s s.reloadImage
  exact ⟨_, exec_strmReload hrun hphase himage, by rw [← List.getD_eq_getElem?_getD]; rfl, invalid, List.length_map _,
    lookup_of_invalid invalid, rfl, rfl⟩

/-! ## Probes (R101, R137, R151, R203) -/

section Probes

variable {s : State}

theorem exec_pIsData {t : Int} (h : s.operands = [t]) : exec .pIsData s =
    if 1 ≤ t ∧ t ≤ leadOutNumber s.layout then .next (s.answer (.bool (isData s.layout t.toNat))) else .refused .trackOutOfRange := by
  simp only [exec, execPIsData, h, intOperand]

theorem exec_pScramble {w : U16} {i : Int} (h : s.operands = [(w.toNat : Int), i]) : exec .pScramble s =
    if 0 ≤ i ∧ i < Config.sectorWords then .next (s.answer (.sample (scramble s.scrambleKey w i.toNat)))
    else .refused .keyIndexOutOfRange := by
  simp only [exec, execPScramble, h, sampleAndIndex_toNat]

theorem exec_pSubq_of_some {x : I32} {r : SubqResult} (h : s.operands = [x.toInt])
    (hr : subq s.params s.layout s.inputs.controlMode x.toInt = some r) : exec .pSubq s = .next (s.answer (.block r)) := by
  simp only [exec, execPSubq, h, i32Operand_toInt, hr]

theorem exec_pSubq_of_none {x : I32} (h : s.operands = [x.toInt])
    (hr : subq s.params s.layout s.inputs.controlMode x.toInt = none) : exec .pSubq s = .refused .noSuchPoint := by
  simp only [exec, execPSubq, h, i32Operand_toInt, hr]

end Probes

/-- Settles O41: each probe reads the operands its line spells. -/
theorem probesAnswer : Obligations.ProbesAnswer := by
  intro s x w i t bs es
  refine ⟨fun hstreams hops => ?_, rfl, fun hops => ?_, fun hops h1 ht => ?_, fun hops => ?_, fun hops h0 hi => ?_, fun hops => ?_,
    fun _ => rfl⟩
  · simp only [exec, execPLoad, hops, trackOperands_entries es hstreams, probe]
  · have operand : i32Operand s.operands = some x := by rw [hops, i32Operand_toInt]
    have answers (f : I32 → ProbeResult) : probe (i32Operand s.operands) s f = .next (s.answer (f x)) := by rw [operand, probe]
    refine ⟨answers _, answers _, answers _, answers _, answers _, answers _, fun hpoint => ?_⟩
    have point : 1 ≤ leadInPoint s.layout x.toInt := hpoint.elim (fun h0 => (leadInPoint_range _ h0).1) id
    obtain ⟨r, hr⟩ := subq_isSome_of_point s.params s.layout s.inputs.controlMode point
    exact ⟨r, hr, exec_pSubq_of_some hops hr⟩
  · have range : 1 ≤ t ∧ t ≤ leadOutNumber s.layout := by rw [leadOutNumber]; omega
    rw [exec_pIsData hops, if_pos range]; rfl
  · have operand : byteOperands bs.length s.operands = some bs := by rw [hops, byteOperands_toNat]
    refine ⟨fun hlen => ?_, fun hlen => ?_⟩ <;> rw [hlen] at operand
    · simp only [exec, execPCrc, operand, probe]
    · simp only [exec, execPPack, operand, probe]
  · rw [exec_pScramble hops, if_pos ⟨h0, hi⟩]; rfl
  · simp only [exec, execPCondition, hops, u16Operand_toNat, probe]

/-- Settles O42: the same operands on the other side of each range. -/
theorem probesRefuseOutOfRange : Obligations.ProbesRefuseOutOfRange := by
  refine fun s t i w x => ⟨fun hops ht => ?_, fun hops hi => ?_, fun hops hs hpoint => ?_⟩
  · rw [exec_pIsData hops, if_neg (by rw [leadOutNumber]; omega)]
  · rw [exec_pScramble hops, if_neg (by rw [Config.sectorWords]; omega)]
  · have none : subq s.params s.layout s.inputs.controlMode x.toInt = none := by
      rw [subq, if_pos hs]; exact if_pos hpoint
    exact exec_pSubq_of_none hops none

/-! ## The machine's invariant: the parts of CTRL -/

theorem PhaseOk.idle {s : State} (h : PhaseOk s) (hne : s.ctrlPhase ≠ .auth) : s.auth.phase = .idle :=
  by_contra fun hrunning => hne (h.auth.mpr hrunning)

/-- A phase change of CTRL, outside `Startup` and in agreement with the sequence. -/
theorem PhaseOk.setCtrl {s : State} (h : PhaseOk s) (hbegun : s.ctrlPhase ≠ .startup) {c : CtrlPhase} {a : Auth}
    (hc : c ≠ .startup) (hauth : c = .auth ↔ a.phase ≠ .idle) : PhaseOk { s with ctrlPhase := c, auth := a } where
  auth := hauth
  halt hhalt := absurd (h.halt hhalt).1 hbegun
  cause := h.cause
  running hon hrun := ⟨hc, (h.running hon hrun).2⟩
  off := h.off

/-- A phase change of STRM that neither enters `Startup` nor leaves it. -/
theorem PhaseOk.setStrm {s : State} (h : PhaseOk s) {m : Streamer} (hm : m.phase = .startup ↔ s.strm.phase = .startup) :
    PhaseOk { s with strm := m } where
  auth := h.auth
  halt hhalt := ⟨(h.halt hhalt).1, hm.mpr (h.halt hhalt).2⟩
  cause := h.cause
  running hon hrun := by
    obtain ⟨ctrl, strm, ready⟩ := h.running hon hrun
    exact ⟨ctrl, mt hm.mp strm, ready⟩
  off := h.off

/-- CLAMP leaves a position in range. -/
theorem positionOk_finishAt {s : State} (e : ExactPos) (hp : s.params.Ok) (hpos : PositionOk s.params s.pos) :
    PositionOk s.params (s.finishAt e).pos := by
  obtain ⟨negative, inRange⟩ := finishAt_clamped s e hp
  by_cases h : e.sector < 0 ∨ e.track < 0
  · obtain ⟨hsector, htrack, -⟩ := negative h
    exact ⟨by rw [hsector]; simp, by rw [htrack]; simp, hpos.logical⟩
  · obtain ⟨hsector, htrack, -⟩ := inRange (by omega) (by omega)
    exact ⟨by omega, by omega, hpos.logical⟩

namespace State.Inv

variable {s t : State} (h : s.Inv)
include h

theorem takeLine {l : TraceLine} (ht : s.now ≤ l.time) (rest : List TraceLine) : (s.takeLine l rest).Inv :=
  { h with
    phases := { h.phases with }
    times :=
      { motion := BitVec.le_trans h.times.motion ht
        seek := BitVec.le_trans h.times.seek ht
        check := BitVec.le_trans h.times.check ht
        phase := BitVec.le_trans h.times.phase ht } }

theorem beginIteration : s.beginIteration.Inv :=
  { h with old := h.position.sector, phases := { h.phases with }, times := { h.times with } }

theorem finishAt (e : ExactPos) : (s.finishAt e).Inv :=
  { h with
    position := positionOk_finishAt (s := s) e h.params h.position, phases := { h.phases with }, times := { h.times with } }

/-- A move of CTRL between its loop and its waits. -/
theorem setCtrlPhase (hbegun : s.ctrlPhase ≠ .startup) (hidle : s.auth.phase = .idle) {c : CtrlPhase} (hc : c ≠ .startup)
    (hne : c ≠ .auth) : State.Inv { s with ctrlPhase := c } :=
  { h with
    phases := h.phases.setCtrl hbegun hc (iff_of_false hne (not_not.mpr hidle)), times := { h.times with } }

theorem setCommand (c : Command) : State.Inv { s with cmd := c } :=
  { h with phases := { h.phases with }, times := { h.times with } }

theorem applyEffect {e : Effect} (he : e.ok = true) : (s.applyEffect e).Inv := by
  cases e with
  | sledSet | modeSet | soctRequest | sensWrite => exact { h with phases := { h.phases with }, times := { h.times with } }
  | autoseekStart target dir =>
    exact { h with phases := { h.phases with }, times := { h.times with seek := BitVec.le_refl _ } }
  | clickCountSet n =>
    exact { h with phases := { h.phases with }, times := { h.times with }, clicks := bne_iff_ne.mp he }

theorem serviceByte (b : Byte) : (s.serviceByte b).Inv := by
  refine applyEffects_keeps (P := State.Inv) (fun u e he hu => hu.applyEffect ?_) _ (h.setCommand _)
  obtain ⟨r, hr, hmem⟩ := mem_decodeLatch he
  exact h.params.latchTable r hr e hmem

theorem latchService : s.latchService.Inv :=
  serviceQueue_keeps (P := State.Inv) (fun _ _ h => h.setCommand _) (fun _ b h => h.serviceByte b) _ _ _ h

theorem sledClick : s.sledClick.Inv := by
  unfold State.sledClick
  split <;> exact { h with phases := { h.phases with }, times := { h.times with } }

theorem runBranch (htop : s.ctrlPhase = .top) (b : Branch) : (s.runBranch b).Inv := by
  have begun : s.ctrlPhase ≠ .startup := by simp [htop]
  have idle := h.phases.idle (by simp [htop])
  cases b with
  | skip => exact h
  | soct => exact h.setCtrlPhase begun idle nofun nofun
  | play =>
    rw [State.runBranch, State.play]
    exact iteInduction (fun _ => (h.finishAt _).setCtrlPhase begun idle nofun nofun) fun _ => h
  | sled =>
    have moved : State.Inv { s with motion := { s.motion with lastMotionTime := s.now } } :=
      { h with phases := { h.phases with }, times := { h.times with motion := BitVec.le_refl _ } }
    rw [State.runBranch, State.sled]
    exact iteInduction (fun _ => h) fun _ => moved.sledClick.finishAt _
  | seekdone =>
    rw [State.runBranch, State.seekdone]
    refine iteInduction (fun _ => h) fun _ => State.Inv.finishAt ?_ _
    exact { h with phases := { h.phases with }, times := { h.times with } }

theorem soctFinish (hbegun : s.ctrlPhase ≠ .startup) (hidle : s.auth.phase = .idle) : s.soctFinish.Inv := by
  have cleared : State.Inv { s with motion := { s.motion with soctPending := false, soctEnabled := false } } :=
    { h with phases := { h.phases with }, times := { h.times with } }
  exact (cleared.finishAt _).setCtrlPhase hbegun hidle nofun nofun

/-- The check that counts beyond the threshold fires and starts the count again. -/
theorem authCheck (htop : s.ctrlPhase = .top) : s.authCheck.Inv := by
  unfold State.authCheck
  split
  · dsimp only
    split
    · exact { h with
        phases := { h.phases.setCtrl (c := .auth) (a := { s.auth with phase := .leadLow }) (by simp [htop]) nofun
          (iff_of_true rfl nofun) with }
        times := { h.times with check := BitVec.le_refl _, phase := BitVec.le_refl _ }
        counter := Nat.zero_le _ }
    · rename_i hbelow
      exact { h with
        phases := { h.phases with }, times := { h.times with check := BitVec.le_refl _ }, counter := not_lt.mp hbelow }
  · exact h

theorem topIteration (htop : s.ctrlPhase = .top) : s.topIteration.Inv := by
  have chained : s.latchService.chain.Inv := h.latchService.runBranch (by rwa [latchService_eq]) _
  unfold State.topIteration
  dsimp only
  split
  · rename_i hstill
    exact chained.authCheck hstill
  · exact chained

end State.Inv

/-- A phase that is over began at least its duration ago, so that the next one's start has passed too. -/
theorem phaseStart_advance {start now : Time} {dur : Nat} (hstart : start ≤ now) (hover : dur ≤ (now - start).toNat) :
    start + BitVec.ofNat 64 dur ≤ now := by
  bv_omega

namespace State.Inv

variable {s t : State} (h : s.Inv)
include h

/-- A boundary ends the sequence, aborted or done, or begins the next phase on the schedule. -/
theorem authBoundary (hauth : s.ctrlPhase = .auth) (hover : authDuration s.auth.phase ≤ s.since s.auth.phaseStart) :
    s.authBoundary.Inv := by
  have begun : s.ctrlPhase ≠ .startup := by simp [hauth]
  have ended : PhaseOk { s with ctrlPhase := .top, auth := { s.auth with phase := .idle } } :=
    h.phases.setCtrl begun nofun (iff_of_false nofun fun hrunning => hrunning rfl)
  unfold State.authBoundary
  split
  · exact { h with phases := { ended with }, times := { h.times with } }
  · split
    · exact { h with phases := { ended with }, times := { h.times with } }
    · rename_i hnext
      exact { h with
        phases := { h.phases with auth := iff_of_true hauth hnext }
        times := { h.times with phase := phaseStart_advance h.times.phase hover } }

theorem authStep (hauth : s.ctrlPhase = .auth) : s.authStep.Inv := by
  unfold State.authStep
  split
  · exact h
  · split
    · exact h
    · rename_i hover
      exact h.authBoundary hauth (not_lt.mp hover)

/-- A transmission resolves one of the layout's tracks, and their numbers fit a byte. -/
theorem subqTx (hlayout : LayoutOk s.params s.layout) (hbegun : s.ctrlPhase ≠ .startup) (hidle : s.auth.phase = .idle)
    (ht : s.subqTx = .next t) : t.Inv := by
  obtain ⟨r, hr, rfl⟩ := subqTx_next ht
  have logical : 1 ≤ (s.transmit r).pos.currentLogicalTrack.toNat := by
    cases hlookup : r.lookup with
    | none => simpa [State.transmit, hlookup] using h.position.logical
    | some k =>
      obtain ⟨lower, upper⟩ := subq_lookup hr hlookup
      obtain ⟨-, few⟩ := hlayout.count
      obtain ⟨-, fits⟩ := h.params.maxTracks
      simp only [State.transmit, hlookup, BitVec.toNat_ofNat]
      omega
  have sent : (s.transmit r).Inv :=
    { h with position := { h.position with logical := logical }, phases := { h.phases with }, times := { h.times with } }
  exact sent.setCtrlPhase hbegun hidle nofun nofun

/-- By what a CTRL event can answer; a transmission runs with a layout installed. -/
theorem exec_ctrl {i : Instr} (hi : opClass i = .ctrl) (hon : s.poweredOn = true) (ht : exec i s = .next t) : t.Inv := by
  have layout (hbegun : s.ctrlPhase ≠ .startup) : LayoutOk s.params s.layout :=
    h.layout hon (Bool.eq_false_iff.mpr fun hhalt => hbegun (h.phases.halt hhalt).1)
  have result := ht ▸ exec_ctrl_result hi
  generalize ho : Host.Outcome.next t = o at result
  cases result with
  | unchanged => cases ho; exact h
  | latch => cases ho; exact h.latchService
  | check htop => cases ho; exact h.authCheck htop
  | branch htop b => cases ho; exact h.beginIteration.runBranch htop b
  | iteration htop => cases ho; exact h.beginIteration.topIteration htop
  | finish hsettle =>
    cases ho; exact h.beginIteration.soctFinish (by simp [hsettle]) (h.phases.idle (by simp [hsettle]))
  | finishAndCheck hsettle =>
    cases ho; exact (h.beginIteration.soctFinish (by simp [hsettle]) (h.phases.idle (by simp [hsettle]))).authCheck rfl
  | transmit hdelay =>
    have begun : s.ctrlPhase ≠ .startup := by simp [hdelay]
    exact h.beginIteration.subqTx (layout begun) begun (h.phases.idle (by simp [hdelay])) ho.symm
  | transmitAndCheck hdelay =>
    have begun : s.ctrlPhase ≠ .startup := by simp [hdelay]
    obtain ⟨u, hu, rfl⟩ := authCheckAfter_next ho.symm
    have sent := h.beginIteration.subqTx (layout begun) begun (h.phases.idle (by simp [hdelay])) hu
    obtain ⟨r, -, rfl⟩ := subqTx_next hu
    exact sent.authCheck rfl
  | step hauth => cases ho; exact h.authStep hauth
  | iterationStep hauth => cases ho; exact h.beginIteration.authStep hauth

end State.Inv

/-- An `X_` operation that completes changes nothing or applies one effect that R115 allows. -/
theorem effect_ok {i : Instr} {s t : State} (hi : opClass i = .effect) (h : exec i s = .next t) :
    t = s ∨ ∃ e : Effect, e.ok = true ∧ t = s.applyEffect e := by
  have injected {e : Effect} (he : e.ok = true) (h : inject s e = .next t) : t = s ∨ ∃ e : Effect, e.ok = true ∧ t = s.applyEffect e :=
    (inject_next h).imp id fun h => ⟨e, he, h⟩
  cases i with
  | xSled | xMode | xSoct | xSens => exact injected rfl h
  | xSeek dir =>
    simp only [exec, execXSeek] at h
    split at h
    · exact injected rfl h
    · cases h
  | xClicks n =>
    simp only [exec, execXClicks] at h
    split at h
    · cases h
    · rename_i hn
      have nonzero : n.setWidth 32 ≠ 0#32 := by bv_omega
      exact injected (e := .clickCountSet _) (bne_iff_ne.mpr nonzero) h
  | _ => cases hi

/-! ## The machine's invariant: STRM -/

/-- The slot a miss fills is the only valid one that holds its key. -/
theorem CacheOk.fill {s : State} (h : CacheOk s.strm) {key : I32} (hmiss : lookup s.strm.cache key = none) (k : Nat) :
    CacheOk (s.fill key k).strm where
  slots := by rw [fill_cache, List.length_set, h.slots]
  bufs c hc := by
    rw [fill_cache] at hc
    obtain hold | rfl := List.mem_or_eq_of_mem_set hc
    · exact h.bufs c hold
    · simp [filledSlot, sectorRead_length]
  cursor := by rw [fill_writeCursor_toNat]; exact Nat.mod_lt _ (by decide)
  unique := by
    have others := lookup_none hmiss
    have distinct := List.pairwise_iff_getElem.mp h.unique
    rw [fill_cache]
    refine List.pairwise_iff_getElem.mpr fun i j hi hj hij => ?_
    rw [List.length_set] at hi hj
    rw [List.getElem_set, List.getElem_set]
    split_ifs with h1 h2 h2
    · omega
    · rintro ⟨-, hvalid, hkey⟩
      exact others _ (List.getElem_mem hj) hvalid hkey.symm
    · rintro ⟨hvalid, -, hkey⟩
      exact others _ (List.getElem_mem hi) hvalid hkey
    · exact distinct i j hi hj hij

theorem CacheOk.ensureCached {s : State} (h : CacheOk s.strm) (key : I32) (k : Nat) : CacheOk (s.ensureCached key k).2.strm := by
  cases hlookup : lookup s.strm.cache key with
  | some j => rwa [ensureCached_of_hit hlookup]
  | none => rw [ensureCached_of_miss hlookup]; exact h.fill hlookup k

namespace State.Inv

variable {s t : State} (h : s.Inv)
include h

theorem setStrm {m : Streamer} {o : Outputs} (hm : m.phase = .startup ↔ s.strm.phase = .startup) (hcache : CacheOk m)
    (hframes : HandshakeOk m) : State.Inv { s with strm := m, out := o } :=
  { h with cache := hcache, frames := hframes, phases := { h.phases.setStrm hm with }, times := { h.times with } }

theorem prepare (hphase : s.strm.phase = .prepare) : s.prepare.Inv := by
  obtain ⟨c, hslot, -, -, hbuf⟩ := ensureCached_slot s (keyOf s.params s.sharedSector) (s.trackSource s.sharedSector) h.cache
  have strm := prepare_strm rfl rfl hslot
  have length := frameWords_length s s.sharedSector (s.trackSource s.sharedSector) c.buf hbuf h.key
  have noEdges : s.strm.clockEdges = 0#2 := h.frames.idle (by simp [hphase])
  have edges : s.prepare.strm.clockEdges = 0#2 := by rw [strm]; simp [noEdges]
  have phase : s.prepare.strm.phase ≠ .startup := by rw [strm]; dsimp only; split <;> nofun
  rw [prepare_eq]
  refine h.setStrm (iff_of_false phase (by simp [hphase])) ?_ ?_
  · rw [strm]
    exact { h.cache.ensureCached _ _ with }
  · refine ⟨?_, by simp [edges], fun _ => edges, fun _ => by rw [strm]⟩
    rw [strm]
    dsimp only
    obtain ⟨length0, length1⟩ := h.frames.frames
    split_ifs
    · exact ⟨length0, length⟩
    · exact ⟨length, length1⟩

theorem swap (hphase : s.strm.phase = .waitClock) : State.Inv { s with strm := s.strm.swap } :=
  h.setStrm (iff_of_false nofun (by simp [hphase])) { h.cache with }
    { h.frames with edges := Nat.zero_le _, idle := fun _ => rfl, drain := nofun }

theorem reload (n : U32) : (s.reload n).Inv := by
  have invalid := reload_invalid s n
  have cache : CacheOk (s.reload n).strm :=
    { slots := (List.length_map _).trans h.cache.slots
      bufs := fun c hc => by
        obtain ⟨b, hb, rfl⟩ := List.mem_map.mp (hc : c ∈ s.strm.cache.map fun c => { c with valid := false })
        exact h.cache.bufs b hb
      cursor := Nat.zero_lt_succ _
      unique := List.pairwise_of_forall_mem_list fun a ha _ _ hboth => by simp [invalid a ha] at hboth }
  have frames : HandshakeOk (s.reload n).strm :=
    { frames := ⟨frame_length, frame_length⟩, edges := Nat.zero_le _, idle := fun _ => rfl, drain := fun _ => rfl }
  exact { h with
    layout := fun _ _ => installedLayoutIsConsistent _ _ h.params
    cache := cache
    frames := frames
    phases := { h.phases.setStrm (m := (s.reload n).strm) Iff.rfl with }
    times := { h.times with } }

theorem exec_strm {i : Instr} (hi : opClass i = .strm) (ht : exec i s = .next t) : t.Inv := by
  obtain rfl | ⟨hphase, rfl⟩ | ⟨hphase, rfl⟩ | ⟨n, rfl⟩ := strm_next hi ht
  · exact h
  · exact h.prepare hphase
  · exact h.swap hphase
  · exact h.reload n

/-! ## The machine's invariant: the environment -/

/-- A drain report starts the clock wait with no edge, or is remembered where STRM does not wait for it. -/
theorem exec_envDrained (ht : exec .envDrained s = .next t) : t.Inv := by
  cases ht
  split
  · rename_i hwait
    exact h.setStrm (iff_of_false nofun (by simp [hwait])) { h.cache with }
      { h.frames with edges := Nat.zero_le _, idle := fun _ => rfl, drain := nofun }
  · rename_i hother
    exact h.setStrm Iff.rfl { h.cache with } { h.frames with drain := fun hwait => absurd hwait hother }

/-- An edge is counted up to two, and only in the clock wait. -/
theorem exec_envWclk {v : Bool} (ht : exec (.envWclk v) s = .next t) : t.Inv := by
  by_cases hv : v = s.strm.wclkLevel
  · cases (exec_envWclk_of_level hv).symm.trans ht
    exact h
  · cases (exec_envWclk_of_transition hv).symm.trans ht
    refine h.setStrm Iff.rfl { h.cache with } { h.frames with edges := ?_, idle := fun hother => ?_ }
    · by_cases hcounts : s.strm.phase = .waitClock ∧ s.strm.clockEdges.toNat < 2
      · rw [edgesAfter_toNat_of_counting hcounts.1 hcounts.2]; omega
      · rw [edgesAfter_of_not_counting ((not_and_or.mp hcounts).imp id not_lt.mp)]
        exact h.frames.edges
    · exact (edgesAfter_of_not_counting (m := s.strm) (.inl hother)).trans (h.frames.idle hother)

end State.Inv

/-! ## The machine's invariant: power-on -/

theorem cacheOk_reset : CacheOk Reset.streamer where
  slots := List.length_replicate
  bufs c hc := by rw [List.eq_of_mem_replicate (hc : c ∈ List.replicate 50 Reset.slot)]; exact List.length_replicate
  cursor := Nat.zero_lt_succ _
  unique := List.pairwise_replicate.mpr (.inr nofun)

theorem handshakeOk_reset {c : StrmPhase} (hc : c ≠ .waitDrain) : HandshakeOk { Reset.streamer with phase := c } :=
  ⟨⟨frame_length, frame_length⟩, Nat.zero_le _, fun _ => rfl, fun hwait => absurd hwait hc⟩

section Poweron

variable {s : State} (hp : s.params.Ok) (hstorage : Storage.wf s.storage = true)
include hp hstorage

/-- A failed mount leaves the reset values and the halt. -/
theorem inv_of_mount_failed : ((s.powered.raiseFatal .mountFailure).note [.mountFailure]).Inv where
  params := hp
  position := ⟨⟨le_refl _, Int.natCast_nonneg _⟩, ⟨le_refl _, Int.natCast_nonneg _⟩, le_refl _⟩
  old := ⟨le_refl _, Int.natCast_nonneg _⟩
  layout _ := nofun
  cache := cacheOk_reset
  frames := handshakeOk_reset (c := .startup) nofun
  key := List.length_replicate
  phases := ⟨iff_of_false nofun fun h => h rfl, fun _ => ⟨rfl, rfl⟩, iff_of_true rfl rfl, fun _ => nofun, nofun⟩
  times := ⟨Nat.zero_le _, Nat.zero_le _, Nat.zero_le _, Nat.zero_le _⟩
  counter := Nat.zero_le _
  clicks := hp.clicks
  storage := hstorage

/-- The startup after a mount leaves the reset values, the key and the image's layout, and both agents in their loops. -/
theorem inv_of_startup : s.powered.startup.Inv :=
  { inv_of_mount_failed hp hstorage with
    layout := fun _ _ => installedLayoutIsConsistent _ _ hp
    cache := { cacheOk_reset with }
    frames := handshakeOk_reset (c := .prepare) nofun
    key := keygen_length _
    phases := ⟨iff_of_false nofun fun h => h rfl, nofun, iff_of_false nofun nofun, fun _ _ => ⟨nofun, nofun, rfl, rfl⟩, fun _ => rfl⟩
    times := { (inv_of_mount_failed hp hstorage).times with } }

/-- Power-on writes every element, so that nothing is asked of the state but its parameters and its storage. -/
theorem inv_of_poweron {t : State} (h : exec .poweron s = .next t) : t.Inv := by
  cases hmount : s.draws.mountOk with
  | true =>
    cases (exec_poweron_of_mountOk hmount).symm.trans h
    exact inv_of_startup hp hstorage
  | false =>
    cases (exec_poweron_of_mount_failed hmount).symm.trans h
    exact inv_of_mount_failed hp hstorage

end Poweron

/-- Settles O59: the reset state is what POWERON leaves of a CORE with the simulation parameters. -/
theorem resetMeetsTheInvariant : Obligations.ResetMeetsTheInvariant :=
  inv_of_poweron (s := State.powerOff Config.simulation) simulation_ok rfl resetIsWhatPoweronLeaves

/-! ## The machine's invariant: every step -/

namespace State.Inv

variable {s t : State} (h : s.Inv)
include h

theorem exec_environment {i : Instr} (hi : opClass i = .environment) (ht : exec i s = .next t) : t.Inv := by
  cases i with
  | poweron => exact inv_of_poweron h.params h.storage ht
  | envDrained => exact h.exec_envDrained ht
  | envWclk => exact h.exec_envWclk ht
  | envImage n =>
    cases (exec_envImage n s).symm.trans ht
    exact { h with phases := { h.phases with }, times := { h.times with } }
  | envCmd | envOverride | envCtlmode | envSubqTaken =>
    cases ht
    exact { h with phases := { h.phases with }, times := { h.times with } }
  | _ => cases hi

/-- Class by class: every operation that may run keeps the invariant. -/
theorem exec {i : Instr} (ha : admitted i s = true) (ht : exec i s = .next t) : t.Inv := by
  have on (hne : i ≠ .poweron) : s.poweredOn = true := by simpa [admitted, hne] using ha
  cases hi : opClass i with
  | environment => exact h.exec_environment hi ht
  | strm => exact h.exec_strm hi ht
  | ctrl => exact h.exec_ctrl hi (on (by rintro rfl; cases hi)) ht
  | probe =>
    obtain ⟨r, rfl⟩ := probe_frame hi ht
    exact { h with phases := { h.phases with }, times := { h.times with } }
  | effect =>
    obtain rfl | ⟨e, he, rfl⟩ := effect_ok hi ht
    · exact h
    · exact h.applyEffect he
  | commandByte =>
    cases i with
    | cmd8 b =>
      rw [exec_cmd8] at ht
      exact (h.setCommand { s.cmd with cmdQueue := s.cmd.cmdQueue ++ [b] }).exec_ctrl rfl (on nofun) ht
    | _ => cases hi

end State.Inv

/-- Settles O60: a step does nothing, or takes a line that is not earlier and runs its operation, which keeps the invariant. -/
theorem everyStepKeepsTheInvariant : Obligations.EveryStepKeepsTheInvariant := by
  intro s t h hstep
  obtain ⟨-, rfl⟩ | ⟨l, rest, i, -, htime, -, ha, hexec⟩ := step_cases hstep
  · exact h
  · exact (h.takeLine htime rest).exec ha hexec

end Sys2Proof.Machine
end
